-- ==== Sys2Proof/Word.lean ====
section
/-! DEFINITION. The word types of M365FE: bytes on the wire, 16-bit and 32-bit little-endian fields
(00_scope.md R9, R11). -/

namespace Sys2Proof

/-- A byte, a `u8` (R9). -/
abbrev Byte := BitVec 8

/-- A `u16`: the checksum, and a 16-bit payload field (R9, R11). -/
abbrev Half := BitVec 16

/-- A `u32` payload field (R9, R11). -/
abbrev Word := BitVec 32

end Sys2Proof
end

