-- ==== Sys2Proof/Config.lean ====
section
/-! DEFINITION. What is fixed when an instance of M365FE is built: the constants of R7, R62 and R63,
the closed set of attribute kinds (R70, R190), and the parameters of R6 with their defaults and
their legal range (R6, R72). -/

namespace Sys2Proof

/-- Frame byte 0, the low byte of `HEADER = 0xAA55` (R7, R41). -/
def headerLow : Byte := 0x55#8

/-- Frame byte 1, the high byte of `HEADER = 0xAA55` (R7, R41). -/
def headerHigh : Byte := 0xAA#8

/-- The header length in bytes (R7). -/
def headerLength : Nat := 6

/-- The largest payload length a frame can carry (R7). -/
def maxPayload : Nat := 253

/-- `MASTER_TO_MOTOR` (R62). -/
def masterToMotor : Byte := 0x20#8

/-- `MASTER_TO_BATTERY` (R62). -/
def masterToBattery : Byte := 0x22#8

/-- `MOTOR_TO_MASTER` (R62). -/
def motorToMaster : Byte := 0x23#8

/-- `BATTERY_TO_MASTER` (R62). -/
def batteryToMaster : Byte := 0x25#8

/-- `READ` (R63). -/
def readCode : Byte := 0x01#8

/-- `WRITE` (R63). -/
def writeCode : Byte := 0x03#8

/-- The 15 attribute kinds, in the order of the table of R70. The set is closed (R190). -/
inductive AttrKind where
  | distanceLeft
  | speed
  | tripDistance
  | tailLight
  | cruise
  | getLock
  | batteryVoltage
  | batteryCurrent
  | batteryPercent
  | batteryInfo
  | batteryCellVoltages
  | generalInfo
  | motorInfo
  | tripInfo
  | supplementary
deriving DecidableEq, Repr

/-- Every attribute kind, in order of kind id (R70). -/
def AttrKind.all : List AttrKind :=
  [.distanceLeft, .speed, .tripDistance, .tailLight, .cruise, .getLock, .batteryVoltage,
   .batteryCurrent, .batteryPercent, .batteryInfo, .batteryCellVoltages, .generalInfo,
   .motorInfo, .tripInfo, .supplementary]

/-- The kind id, 0 to 14 (R70). -/
def AttrKind.id : AttrKind → Nat
  | .distanceLeft => 0
  | .speed => 1
  | .tripDistance => 2
  | .tailLight => 3
  | .cruise => 4
  | .getLock => 5
  | .batteryVoltage => 6
  | .batteryCurrent => 7
  | .batteryPercent => 8
  | .batteryInfo => 9
  | .batteryCellVoltages => 10
  | .generalInfo => 11
  | .motorInfo => 12
  | .tripInfo => 13
  | .supplementary => 14

/-- One byte for each attribute kind: the shape of the parameters `ATTR_CODE` and `ATTR_DIR` (R6). -/
structure AttrMap where
  distanceLeft : Byte
  speed : Byte
  tripDistance : Byte
  tailLight : Byte
  cruise : Byte
  getLock : Byte
  batteryVoltage : Byte
  batteryCurrent : Byte
  batteryPercent : Byte
  batteryInfo : Byte
  batteryCellVoltages : Byte
  generalInfo : Byte
  motorInfo : Byte
  tripInfo : Byte
  supplementary : Byte
deriving DecidableEq, Repr

/-- The entry of a map for one kind. -/
def AttrMap.get (m : AttrMap) : AttrKind → Byte
  | .distanceLeft => m.distanceLeft
  | .speed => m.speed
  | .tripDistance => m.tripDistance
  | .tailLight => m.tailLight
  | .cruise => m.cruise
  | .getLock => m.getLock
  | .batteryVoltage => m.batteryVoltage
  | .batteryCurrent => m.batteryCurrent
  | .batteryPercent => m.batteryPercent
  | .batteryInfo => m.batteryInfo
  | .batteryCellVoltages => m.batteryCellVoltages
  | .generalInfo => m.generalInfo
  | .motorInfo => m.motorInfo
  | .tripInfo => m.tripInfo
  | .supplementary => m.supplementary

/-- The parameters of an instance (R6), fixed when it is built (R26). -/
structure Params where
  /-- `P_CHUNK_MAX`: the largest chunk PUSH accepts. -/
  chunkMax : Nat
  /-- `P_PARSE_MAX`: the largest byte sequence PARSE accepts. -/
  parseMax : Nat
  /-- `P_PEND_DEPTH`: the number of entries the pending store holds. -/
  pendDepth : Nat
  /-- `P_PEND_MAX_AGE`: the age at which an entry expires; 0 means never. -/
  pendMaxAge : Nat
  /-- `P_ACCUMULATE`: whether a chunk that extends an entry without completing it is merged. -/
  accumulate : Bool
  /-- `ATTR_CODE`: the attribute code byte of each kind. -/
  attrCode : AttrMap
  /-- `ATTR_DIR`: the response direction of each kind. -/
  attrDir : AttrMap
deriving DecidableEq, Repr

/-- The decode key of a kind: `(ATTR_DIR[k], ATTR_CODE[k])` (R73). -/
def Params.key (p : Params) (k : AttrKind) : Byte × Byte := (p.attrDir.get k, p.attrCode.get k)

/-- The parameters are in their legal ranges (R6) and the two maps are well formed: every direction
is 0x23 or 0x25, and no two kinds have the same key (R72). -/
abbrev Params.Legal (p : Params) : Prop :=
  (1 ≤ p.chunkMax ∧ p.chunkMax ≤ 65535) ∧ p.parseMax = p.chunkMax + 260 ∧
  (1 ≤ p.pendDepth ∧ p.pendDepth ≤ 255) ∧ p.pendMaxAge ≤ 255 ∧
  (∀ k ∈ AttrKind.all, p.attrDir.get k = motorToMaster ∨ p.attrDir.get k = batteryToMaster) ∧
  (AttrKind.all.map p.key).Nodup

/-- The default `ATTR_CODE` of R70. Only 0x34 is the source's; the spec supplies the other fourteen
from general knowledge (93_implementation_defined.md K1). -/
def defaultAttrCode : AttrMap where
  distanceLeft := 0x25#8
  speed := 0xB5#8
  tripDistance := 0xB9#8
  tailLight := 0x7D#8
  cruise := 0x7C#8
  getLock := 0xB2#8
  batteryVoltage := 0x34#8
  batteryCurrent := 0x33#8
  batteryPercent := 0x32#8
  batteryInfo := 0x31#8
  batteryCellVoltages := 0x40#8
  generalInfo := 0x10#8
  motorInfo := 0xB0#8
  tripInfo := 0x3A#8
  supplementary := 0x7B#8

/-- The default `ATTR_DIR` of R70 and R71: the five BATTERY_* kinds under 0x25, the other ten under
0x23. -/
def defaultAttrDir : AttrMap where
  distanceLeft := motorToMaster
  speed := motorToMaster
  tripDistance := motorToMaster
  tailLight := motorToMaster
  cruise := motorToMaster
  getLock := motorToMaster
  batteryVoltage := batteryToMaster
  batteryCurrent := batteryToMaster
  batteryPercent := batteryToMaster
  batteryInfo := batteryToMaster
  batteryCellVoltages := batteryToMaster
  generalInfo := motorToMaster
  motorInfo := motorToMaster
  tripInfo := motorToMaster
  supplementary := motorToMaster

/-- The default parameters of R6. -/
def Params.default : Params where
  chunkMax := 512
  parseMax := 772
  pendDepth := 4
  pendMaxAge := 0
  accumulate := false
  attrCode := defaultAttrCode
  attrDir := defaultAttrDir

end Sys2Proof
end

