-- ==== Sys2Proof/Machine/Operands.lean ====
section
/-! DEFINITION. The operand primitives of M365FE: reading bytes and little-endian fields of a byte
sequence (R10, R11), and the lookup of a decode key (R73). -/

namespace Sys2Proof.Machine

/-- `B[i]` (R10). Every command checks the length before it reads (R45), so the value for an index
past the end is never used (notes/assumptions/13.md). -/
def byteAt (B : List Byte) (i : Nat) : Byte := B.getD i 0#8

/-- `B[i .. j-1]`, empty when `j <= i` (R10). -/
def slice (B : List Byte) (i j : Nat) : List Byte := (B.take j).drop i

/-- A little-endian `u16` from its two bytes, the low one first (R11). -/
def le16Bytes (lo hi : Byte) : Half := lo.setWidth 16 ||| (hi.setWidth 16 <<< 8)

/-- `le16(B, o)` (R11). -/
def le16 (B : List Byte) (o : Nat) : Half := le16Bytes (byteAt B o) (byteAt B (o + 1))

/-- `le32(B, o)` (R11). -/
def le32 (B : List Byte) (o : Nat) : Word :=
  (le16 B o).setWidth 32 ||| ((le16 B (o + 2)).setWidth 32 <<< 16)

/-- `v[7:0]` of a `u16` (R8). -/
def lowByte (v : Half) : Byte := v.extractLsb' 0 8

/-- `v[15:8]` of a `u16` (R8). -/
def highByte (v : Half) : Byte := v.extractLsb' 8 8

/-- A count as the 8-bit field `N` of a command or the length byte of a frame (R60, R82). -/
def countByte (n : Nat) : Byte := BitVec.ofNat 8 n

/-- A count as the 16-bit field `n` of a command (R82). -/
def countHalf (n : Nat) : Half := BitVec.ofNat 16 n

/-- `Lookup(d, a)`: the kind whose key is `(d, a)`, or none (R73). -/
def lookup (p : Params) (d a : Byte) : Option AttrKind :=
  AttrKind.all.find? fun k => p.key k == (d, a)

end Sys2Proof.Machine
end

