-- ==== Sys2Proof/Syntax.lean ====
section
/-! DEFINITION. The instruction syntax: one constructor for each row of spec/opcode_table.json. A
payload `P` or byte sequence `B` is a list; its count `N` or `n` is the list's length (R82, R86). -/

namespace Sys2Proof

/-- The commands of M365FE. -/
inductive Instr where
  /-- `CHECKSUM d, rw, a, [P]` (R102). -/
  | checksum (d rw a : Byte) (P : List Byte)
  /-- `ENCODE d, rw, a, [P]` (R104). -/
  | encode (d rw a : Byte) (P : List Byte)
  /-- `PARSE [B]` (R127). -/
  | parse (B : List Byte)
  /-- `PUSH [C]` (R150). -/
  | push (C : List Byte)
  /-- `DECODE d, a, [P]` (R170). -/
  | decode (d a : Byte) (P : List Byte)
  /-- `READ_REQ d, a, n`: the command words of `ENCODE d, READ, a, [n]` (R89). -/
  | readReq (d a n : Byte)
  /-- `WRITE_REQ d, a, [P]`: the command words of `ENCODE d, WRITE, a, [P]` (R89). -/
  | writeReq (d a : Byte) (P : List Byte)
  /-- Reserved opcode 0x00, with whatever bytes follow it (R87). -/
  | reserved00 (rest : List Byte)
  /-- Reserved opcodes 0x06 and 0x07: the low bit is free (R87). -/
  | reserved06 (lo : BitVec 1) (rest : List Byte)
  /-- Reserved opcodes 0x08 to 0x0F (R87). -/
  | reserved08 (lo : BitVec 3) (rest : List Byte)
  /-- Reserved opcodes 0x10 to 0x1F (R87). -/
  | reserved10 (lo : BitVec 4) (rest : List Byte)
  /-- Reserved opcodes 0x20 to 0x3F (R87). -/
  | reserved20 (lo : BitVec 5) (rest : List Byte)
  /-- Reserved opcodes 0x40 to 0x7F (R87). -/
  | reserved40 (lo : BitVec 6) (rest : List Byte)
  /-- Reserved opcodes 0x80 to 0xFF (R87). -/
  | reserved80 (lo : BitVec 7) (rest : List Byte)
  /-- DECODE under the key of DISTANCE_LEFT (R175). -/
  | decodeDistanceLeft (P : List Byte)
  /-- DECODE under the key of SPEED (R176). -/
  | decodeSpeed (P : List Byte)
  /-- DECODE under the key of TRIP_DISTANCE (R177). -/
  | decodeTripDistance (P : List Byte)
  /-- DECODE under the key of TAIL_LIGHT (R178). -/
  | decodeTailLight (P : List Byte)
  /-- DECODE under the key of CRUISE (R179). -/
  | decodeCruise (P : List Byte)
  /-- DECODE under the key of GET_LOCK (R180). -/
  | decodeGetLock (P : List Byte)
  /-- DECODE under the key of BATTERY_VOLTAGE (R181). -/
  | decodeBatteryVoltage (P : List Byte)
  /-- DECODE under the key of BATTERY_CURRENT (R182). -/
  | decodeBatteryCurrent (P : List Byte)
  /-- DECODE under the key of BATTERY_PERCENT (R183). -/
  | decodeBatteryPercent (P : List Byte)
  /-- DECODE under the key of BATTERY_INFO (R184). -/
  | decodeBatteryInfo (P : List Byte)
  /-- DECODE under the key of BATTERY_CELL_VOLTAGES (R185). -/
  | decodeBatteryCellVoltages (P : List Byte)
  /-- DECODE under the key of GENERAL_INFO (R186). -/
  | decodeGeneralInfo (P : List Byte)
  /-- DECODE under the key of MOTOR_INFO (R187). -/
  | decodeMotorInfo (P : List Byte)
  /-- DECODE under the key of TRIP_INFO (R188). -/
  | decodeTripInfo (P : List Byte)
  /-- DECODE under the key of SUPPLEMENTARY (R189). -/
  | decodeSupplementary (P : List Byte)
deriving DecidableEq, Repr

/-- The DECODE row of an attribute kind (R175 to R189). -/
def AttrKind.decodeInstr : AttrKind → List Byte → Instr
  | .distanceLeft => .decodeDistanceLeft
  | .speed => .decodeSpeed
  | .tripDistance => .decodeTripDistance
  | .tailLight => .decodeTailLight
  | .cruise => .decodeCruise
  | .getLock => .decodeGetLock
  | .batteryVoltage => .decodeBatteryVoltage
  | .batteryCurrent => .decodeBatteryCurrent
  | .batteryPercent => .decodeBatteryPercent
  | .batteryInfo => .decodeBatteryInfo
  | .batteryCellVoltages => .decodeBatteryCellVoltages
  | .generalInfo => .decodeGeneralInfo
  | .motorInfo => .decodeMotorInfo
  | .tripInfo => .decodeTripInfo
  | .supplementary => .decodeSupplementary

end Sys2Proof
end

