-- ==== Sys2Proof/WellFormed.lean ====
section
/-! DEFINITION. Which terms of `Instr` stand for a command: the counts fit their fields (R82), and a
command has one spelling, the row with the narrowest pattern (notes/assumptions/6.md). -/

namespace Sys2Proof

/-- The payload's length fits the 8-bit count `N` (R82). -/
def fitsByteCount (P : List Byte) : Bool := P.length ≤ 255

/-- The sequence's length fits the 16-bit count `n` (R82). -/
def fitsHalfCount (B : List Byte) : Bool := B.length ≤ 65535

/-- The fields are those of a READ_REQ: `rw = READ` and a one-byte payload (R89). -/
def isReadReq (rw : Byte) (P : List Byte) : Bool := rw == readCode && P.length == 1

/-- The fields are those of a WRITE_REQ: `rw = WRITE` (R89). -/
def isWriteReq (rw : Byte) : Bool := rw == writeCode

/-- A term is well formed when its counts fit and no narrower row spells the same command. The keys
of the DECODE rows are parameters, so the check takes them. -/
def Instr.wellFormed (p : Params) : Instr → Bool
  | .checksum _ _ _ P => fitsByteCount P
  | .encode _ rw _ P => fitsByteCount P && !isReadReq rw P && !isWriteReq rw
  | .parse B => fitsHalfCount B
  | .push C => fitsHalfCount C
  | .decode d a P => fitsByteCount P && (Machine.lookup p d a).isNone
  | .readReq _ _ _ => true
  | .writeReq _ _ P => fitsByteCount P
  | .reserved00 _ => true
  | .reserved06 _ _ => true
  | .reserved08 _ _ => true
  | .reserved10 _ _ => true
  | .reserved20 _ _ => true
  | .reserved40 _ _ => true
  | .reserved80 _ _ => true
  | .decodeDistanceLeft P => fitsByteCount P
  | .decodeSpeed P => fitsByteCount P
  | .decodeTripDistance P => fitsByteCount P
  | .decodeTailLight P => fitsByteCount P
  | .decodeCruise P => fitsByteCount P
  | .decodeGetLock P => fitsByteCount P
  | .decodeBatteryVoltage P => fitsByteCount P
  | .decodeBatteryCurrent P => fitsByteCount P
  | .decodeBatteryPercent P => fitsByteCount P
  | .decodeBatteryInfo P => fitsByteCount P
  | .decodeBatteryCellVoltages P => fitsByteCount P
  | .decodeGeneralInfo P => fitsByteCount P
  | .decodeMotorInfo P => fitsByteCount P
  | .decodeTripInfo P => fitsByteCount P
  | .decodeSupplementary P => fitsByteCount P

end Sys2Proof
end

