-- ==== Sys2Proof/Decode.lean ====
section
/-! DEFINITION. Decoding a command's bytes (R80 to R87) into an instruction, and the encoder back
into bytes. Decoding is total; bytes that are no well-formed command are rejected by name. -/

namespace Sys2Proof

/-- Why command bytes are no well-formed command (R85). All three give REJECTED_MALFORMED. -/
inductive DecodeError where
  /-- `m = 0` (R85, check 1). -/
  | empty
  /-- `m` is shorter than the fixed part of the format (R85, check 3). -/
  | shortFixedPart
  /-- `m` differs from the total length of the format (R82; R85, check 3). -/
  | lengthDiffers
deriving DecidableEq, Repr

/-- Format FIELDS after the opcode: `d rw a N P` (R82, R86). -/
def decodeFields (mk : Byte → Byte → Byte → List Byte → Instr) :
    List Byte → Except DecodeError Instr
  | d :: rw :: a :: n :: P => if P.length = n.toNat then .ok (mk d rw a P) else .error .lengthDiffers
  | _ => .error .shortFixedPart

/-- Format STREAM after the opcode: `n_lo n_hi B` (R82, R86). -/
def decodeStream (mk : List Byte → Instr) : List Byte → Except DecodeError Instr
  | lo :: hi :: B =>
    if B.length = (Machine.le16Bytes lo hi).toNat then .ok (mk B) else .error .lengthDiffers
  | _ => .error .shortFixedPart

/-- Format DFIELDS after the opcode: `d a N P` (R82, R86). -/
def decodeDfields (mk : Byte → Byte → List Byte → Instr) : List Byte → Except DecodeError Instr
  | d :: a :: n :: P => if P.length = n.toNat then .ok (mk d a P) else .error .lengthDiffers
  | _ => .error .shortFixedPart

/-- The row that spells an ENCODE with these fields: READ_REQ, WRITE_REQ or ENCODE itself (R89). -/
def spellEncode (d rw a : Byte) (P : List Byte) : Instr :=
  if isWriteReq rw then .writeReq d a P
  else if isReadReq rw P then .readReq d a (Machine.byteAt P 0)
  else .encode d rw a P

/-- The row that spells a DECODE with this key: the kind's own row, or DECODE itself where no kind
has the key (R73). -/
def spellDecode (p : Params) (d a : Byte) (P : List Byte) : Instr :=
  match Machine.lookup p d a with
  | some k => k.decodeInstr P
  | none => .decode d a P

/-- The reserved row of an opcode that is not 0x01 to 0x05 (R81, R87): the rows are told apart by the
opcode's fixed high bits. -/
def decodeReserved (op : Byte) (rest : List Byte) : Instr :=
  if op.extractLsb' 7 1 = 1#1 then .reserved80 (op.extractLsb' 0 7) rest
  else if op.extractLsb' 6 2 = 1#2 then .reserved40 (op.extractLsb' 0 6) rest
  else if op.extractLsb' 5 3 = 1#3 then .reserved20 (op.extractLsb' 0 5) rest
  else if op.extractLsb' 4 4 = 1#4 then .reserved10 (op.extractLsb' 0 4) rest
  else if op.extractLsb' 3 5 = 1#5 then .reserved08 (op.extractLsb' 0 3) rest
  else if op.extractLsb' 1 7 = 3#7 then .reserved06 (op.extractLsb' 0 1) rest
  else .reserved00 rest

/-- The instruction of a command's bytes `CMD[0 .. m-1]` (R80 to R87). The checks come in the order of
R85: an empty command, then the opcode, then the length. -/
def decode (p : Params) : List Byte → Except DecodeError Instr
  | [] => .error .empty
  | op :: rest =>
    if op = 0x01#8 then decodeFields .checksum rest
    else if op = 0x02#8 then decodeFields spellEncode rest
    else if op = 0x03#8 then decodeStream .parse rest
    else if op = 0x04#8 then decodeStream .push rest
    else if op = 0x05#8 then decodeDfields (spellDecode p) rest
    else .ok (decodeReserved op rest)

/-- The bytes of a FIELDS command (R82). -/
def encodeFields (op d rw a : Byte) (P : List Byte) : List Byte :=
  op :: d :: rw :: a :: Machine.countByte P.length :: P

/-- The bytes of a STREAM command (R82). -/
def encodeStream (op : Byte) (B : List Byte) : List Byte :=
  op :: Machine.lowByte (Machine.countHalf B.length) ::
    Machine.highByte (Machine.countHalf B.length) :: B

/-- The bytes of a DFIELDS command (R82). -/
def encodeDfields (op d a : Byte) (P : List Byte) : List Byte :=
  op :: d :: a :: Machine.countByte P.length :: P

/-- The bytes of the DECODE command of a kind (R70, R73). -/
def encodeKind (p : Params) (k : AttrKind) (P : List Byte) : List Byte :=
  encodeDfields 0x05#8 (p.attrDir.get k) (p.attrCode.get k) P

/-- The bytes of a command (R81, R82, R88, R89). -/
def encode (p : Params) : Instr → List Byte
  | .checksum d rw a P => encodeFields 0x01#8 d rw a P
  | .encode d rw a P => encodeFields 0x02#8 d rw a P
  | .parse B => encodeStream 0x03#8 B
  | .push C => encodeStream 0x04#8 C
  | .decode d a P => encodeDfields 0x05#8 d a P
  | .readReq d a n => encodeFields 0x02#8 d readCode a [n]
  | .writeReq d a P => encodeFields 0x02#8 d writeCode a P
  | .reserved00 rest => 0x00#8 :: rest
  | .reserved06 lo rest => (3#7 ++ lo) :: rest
  | .reserved08 lo rest => (1#5 ++ lo) :: rest
  | .reserved10 lo rest => (1#4 ++ lo) :: rest
  | .reserved20 lo rest => (1#3 ++ lo) :: rest
  | .reserved40 lo rest => (1#2 ++ lo) :: rest
  | .reserved80 lo rest => (1#1 ++ lo) :: rest
  | .decodeDistanceLeft P => encodeKind p .distanceLeft P
  | .decodeSpeed P => encodeKind p .speed P
  | .decodeTripDistance P => encodeKind p .tripDistance P
  | .decodeTailLight P => encodeKind p .tailLight P
  | .decodeCruise P => encodeKind p .cruise P
  | .decodeGetLock P => encodeKind p .getLock P
  | .decodeBatteryVoltage P => encodeKind p .batteryVoltage P
  | .decodeBatteryCurrent P => encodeKind p .batteryCurrent P
  | .decodeBatteryPercent P => encodeKind p .batteryPercent P
  | .decodeBatteryInfo P => encodeKind p .batteryInfo P
  | .decodeBatteryCellVoltages P => encodeKind p .batteryCellVoltages P
  | .decodeGeneralInfo P => encodeKind p .generalInfo P
  | .decodeMotorInfo P => encodeKind p .motorInfo P
  | .decodeTripInfo P => encodeKind p .tripInfo P
  | .decodeSupplementary P => encodeKind p .supplementary P

/-- The command bytes of a row of the opcode table, numbered as the table numbers the row. An 8-bit
row is `CMD[0]`, and the operands are zeros. A wider row is an ATTR_KEY row: its bits 15..8 are
`CMD[1]` and its bits 7..0 are `CMD[2]` of a DECODE (the rows' "applies_to"), and the payload is
empty (notes/assumptions/7.md). -/
def tableCommand (nbits w : Nat) : List Byte :=
  if nbits ≤ 8 then
    let op := BitVec.ofNat 8 w
    if op = 0x01#8 ∨ op = 0x02#8 then [op, 0#8, 0#8, 0#8, 0#8]
    else if op = 0x03#8 ∨ op = 0x04#8 then [op, 0#8, 0#8]
    else if op = 0x05#8 then [op, 0#8, 0#8, 0#8]
    else [op]
  else [0x05#8, BitVec.ofNat 8 (w / 256), BitVec.ofNat 8 w, 0#8]

/-- The instruction the decoder reads from a row's bits, under the default parameters. -/
def decodeTableWord (nbits w : Nat) : Option Instr :=
  match decode Params.default (tableCommand nbits w) with
  | .ok i => some i
  | .error _ => none

end Sys2Proof
end

