-- ==== Sys2Proof/Machine/State.lean ====
section
/-! DEFINITION. The state of M365FE as plain data: the pending-fragment store (R20 to R23), the
parameters of the instance (R26), and the model's own view of the two ports (R80). Beside it the
transient values a response carries (R24, R83, R84), and the reasons a step can stop. -/

namespace Sys2Proof.Machine

/-- The status codes of R84. Every other code is reserved and is never returned, so none is here. -/
inductive Status where
  | ok
  | invalidHeader
  | disjointed
  | invalidChecksum
  | ignoredEmpty
  | dispatchedDirect
  | buffered
  | dispatchedCombined
  | discardedNoMatch
  | discardedChecksum
  | accumulated
  | decoded
  | unhandled
  | lengthMismatch
  | rejectedBadOpcode
  | rejectedMalformed
  | rejectedTooLong
  | errPayloadTooLong
deriving DecidableEq, Repr

/-- A Frame: a complete, verified message (R24). -/
structure Frame where
  direction : Byte
  readWrite : Byte
  attrCode : Byte
  payload : List Byte
  rawBytes : List Byte
deriving DecidableEq, Repr

/-- One pending entry `{bytes, age}`; `age` is a `u8` (R22). -/
structure Entry where
  bytes : List Byte
  age : Fin 256
deriving DecidableEq, Repr

/-- The units of the layout tables, as the source writes them (R175 to R189). -/
inductive PhysUnit where
  | km
  | kmPerHour
  | metre
  | second
  | volt
  | ampere
  | ampereHour
  | percent
  | celsius
  | none
deriving DecidableEq, Repr

/-- The integer field types of a layout (R74). -/
inductive NumType where
  | u8
  | u16
  | i16
  | u32
deriving DecidableEq, Repr

/-- The conversions of an integer field (R74, R171). -/
inductive NumConv where
  | ident (unit : PhysUnit)
  | div (d : Nat) (unit : PhysUnit)
  | add (k : Int) (unit : PhysUnit)
  | eq (K : Int)
  | nibbles3
deriving DecidableEq, Repr

/-- The conversion of a field: one of an integer field's, or `TEXT` of a `BYTES(n)` field (R74). -/
inductive Conv where
  | num (c : NumConv)
  | text
deriving DecidableEq, Repr

/-- The informative name of a field (R173, R175 to R189). -/
inductive FieldName where
  | distanceLeftKm
  | speedKmh
  | tripDistanceM
  | isTailLightOn
  | isCruiseOn
  | isLockOn
  | batteryVoltage
  | batteryCurrent
  | batteryPercent
  | capacity
  | percent
  | current
  | voltage
  | temp1
  | temp2
  | cellVoltage (j : Nat)
  | serial
  | pin
  | version
  | speed
  | speedAvg
  | odometer
  | uptimeS
  | frameTemp
  | kersMode
  | cruise
  | tailLight
deriving DecidableEq, Repr

/-- The identity of a field: the kind and the field's index among the non-reserved fields of the
kind's layout (R173). -/
structure FieldId where
  kind : AttrKind
  index : Nat
deriving DecidableEq, Repr

/-- What extraction reads: an integer, or the bytes of a `BYTES(n)` field (R174). -/
inductive Raw where
  | num (v : Int)
  | bytes (bs : List Byte)
deriving DecidableEq, Repr

/-- A converted value (R171). A `DIV` value is the exact rational `num / den`, kept as the pair and
never rounded (R13). -/
inductive Value where
  | int (v : Int) (unit : PhysUnit)
  | ratio (num : Int) (den : Nat) (unit : PhysUnit)
  | bool (b : Bool)
  | text (bs : List Byte)
  | nibbles (v2 v1 v0 : BitVec 4)
deriving DecidableEq, Repr

/-- One decoded field `{fid, raw, conv, value}` with its informative name (R170, R173). -/
structure Field where
  fid : FieldId
  name : FieldName
  raw : Raw
  conv : Conv
  value : Value
deriving DecidableEq, Repr

/-- `DecodeResult`: `{dstatus, kind, fields}`; the last two are present when the status is DECODED
(R83, R170). -/
structure DecodeResult where
  dstatus : Status
  kind : Option AttrKind := .none
  fields : Option (List Field) := .none
deriving DecidableEq, Repr

/-- A response: a record whose first field is `status` and whose other fields are present only as the
table of R83 says; `none` is an absent field. `frameBytes` is the `frame: bytes` of ENCODE, `frame`
the `frame: Frame` of PARSE and PUSH. -/
structure Response where
  status : Status
  checksum : Option Half := .none
  frameBytes : Option (List Byte) := .none
  frame : Option Frame := .none
  parseStatus : Option Status := .none
  index : Option Nat := .none
  evicted : Option Nat := .none
  expired : Option Nat := .none
  decode : Option DecodeResult := .none
  kind : Option AttrKind := .none
  fields : Option (List Field) := .none
deriving DecidableEq, Repr

/-- What the host does at the command port and the reset input (R80, R250, R251). -/
inductive HostEvent where
  /-- A complete command `CMD[0 .. m-1]` is presented (R80). -/
  | command (cmd : List Byte)
  /-- Reset is asserted between commands, or power is applied (R250). -/
  | reset
  /-- Reset is asserted while this command runs (R251). -/
  | resetDuring (cmd : List Byte)
deriving DecidableEq, Repr

/-- The state of one instance. `pend` is the whole architectural state (R20). `params` is constant
(R26). `port` and `responses` are the model's own: what the host has presented and M365FE has not
taken yet, next first (R255), and the responses returned so far, oldest first (R80). -/
structure State where
  /-- The parameters of the instance (R6, R26). -/
  params : Params
  /-- The valid pending entries: `PEND[0]`, the oldest, comes first (R21, R22). -/
  pend : List Entry
  /-- The host's events not yet taken, in order (R80, R255; notes/assumptions/1.md). -/
  port : List HostEvent
  /-- The responses returned, oldest first (R80, R83; notes/assumptions/2.md). -/
  responses : List Response
deriving DecidableEq, Repr

/-- Why a step or a reader of the model stops with a fault. All are faults of the model, not of the
hardware (93_implementation_defined.md, section 2), and all are safe: nothing follows from them. -/
inductive Fault where
  /-- M1: `PEND[i]` was read with `i >= PEND_COUNT` (R22). Raised by the reader `State.readPend`; safe. -/
  | noPendingEntry (i : Nat)
  /-- M2: a response field was read that is absent for the returned status (R83). Raised by the
  readers of a response in Machine/Ops.lean; safe. -/
  | absentField
  /-- M5: the stored entry at this index does not parse DISJOINTED (R23). Raised by `step` before a
  command runs; no run from reset reaches it; safe. -/
  | entryNotDisjointed (i : Nat)
deriving DecidableEq, Repr

/-- Why a step is refused. -/
inductive Refusal where
  /-- The instruction has no meaning in the model. Raised by no arm of `exec`; safe. -/
  | notModelled (mnemonic : String)
  /-- M3, M4: the parameters are not legal, so the instance is not built (R6, R72). Raised by `step`;
  safe. -/
  | instanceNotBuilt
deriving DecidableEq, Repr

/-- The machine right after reset, built with the default parameters: the store is empty (R30,
R250). Nothing has been presented or returned. -/
def State.reset : State where
  params := Params.default
  pend := []
  port := []
  responses := []

end Sys2Proof.Machine
end

