-- ==== Sys2Proof/Machine/Flags.lean ====
section
/-! DEFINITION. M365FE keeps no flags and no condition codes (R28). The status byte of a response
takes their place: this file gives the `u8` code of every status (R84). -/

namespace Sys2Proof.Machine

/-- The `u8` code of a status (R84). -/
def Status.code : Status → Byte
  | .ok => 0x00#8
  | .invalidHeader => 0x01#8
  | .disjointed => 0x02#8
  | .invalidChecksum => 0x03#8
  | .ignoredEmpty => 0x10#8
  | .dispatchedDirect => 0x11#8
  | .buffered => 0x12#8
  | .dispatchedCombined => 0x13#8
  | .discardedNoMatch => 0x14#8
  | .discardedChecksum => 0x15#8
  | .accumulated => 0x16#8
  | .decoded => 0x20#8
  | .unhandled => 0x21#8
  | .lengthMismatch => 0x22#8
  | .rejectedBadOpcode => 0xF0#8
  | .rejectedMalformed => 0xF1#8
  | .rejectedTooLong => 0xF2#8
  | .errPayloadTooLong => 0xF3#8

end Sys2Proof.Machine
end

