-- ==== Sys2Proof/Machine/Ops.lean ====
section
/-! DEFINITION. The named operations over the state: returning a response, writing the pending store,
the two ports, reset, and the checked readers. M365FE takes no exception and returns from none
(R220, R225, R226): ending a command with a status is `State.respond`, the one shared operation that
stands in its place. -/

namespace Sys2Proof.Machine

/-- `return <Response>`: the response is delivered, after every earlier one (R12, R80). -/
def State.respond (s : State) (r : Response) : State := { s with responses := s.responses ++ [r] }

/-- The pending store becomes `es`. Only PUSH and reset write it (R21, R22, R235). -/
def State.setPend (s : State) (es : List Entry) : State := { s with pend := es }

/-- The events not yet taken become `evs`. -/
def State.setPort (s : State) (evs : List HostEvent) : State := { s with port := evs }

/-- Reset: `PEND_COUNT <- 0`, and every pending entry is discarded (R250). -/
def State.clearStore (s : State) : State := s.setPend []

/-- `PEND_COUNT` (R21). -/
def State.pendCount (s : State) : Nat := s.pend.length

/-- A response of a status alone: the rejections and ERR_PAYLOAD_TOO_LONG (R83), and the statuses of
PARSE that carry no frame. -/
def Response.alone (st : Status) : Response := { status := st }

/-- Reading `PEND[i]`: a fault when `i >= PEND_COUNT`, never a value (R22, M1). -/
def State.readPend (s : State) (i : Nat) : Except Fault Entry :=
  match s.pend[i]? with
  | some e => .ok e
  | none => .error (.noPendingEntry i)

/-- Reading a field of a response that may be absent: a fault when it is (R83, M2). -/
def readPresent {α : Type} : Option α → Except Fault α
  | some a => .ok a
  | none => .error .absentField

/-- Reads `checksum` (R83). -/
def Response.readChecksum (r : Response) : Except Fault Half := readPresent r.checksum

/-- Reads the `frame: bytes` of ENCODE (R83). -/
def Response.readFrameBytes (r : Response) : Except Fault (List Byte) := readPresent r.frameBytes

/-- Reads the `frame: Frame` of PARSE and PUSH (R83). -/
def Response.readFrame (r : Response) : Except Fault Frame := readPresent r.frame

/-- Reads `parse_status` (R83). -/
def Response.readParseStatus (r : Response) : Except Fault Status := readPresent r.parseStatus

/-- Reads `index` (R83). -/
def Response.readIndex (r : Response) : Except Fault Nat := readPresent r.index

/-- Reads `evicted` (R83). -/
def Response.readEvicted (r : Response) : Except Fault Nat := readPresent r.evicted

/-- Reads `expired` (R83). -/
def Response.readExpired (r : Response) : Except Fault Nat := readPresent r.expired

/-- Reads `decode` (R83). -/
def Response.readDecode (r : Response) : Except Fault DecodeResult := readPresent r.decode

/-- Reads `kind` of DECODE (R83). -/
def Response.readKind (r : Response) : Except Fault AttrKind := readPresent r.kind

/-- Reads `fields` of DECODE (R83). -/
def Response.readFields (r : Response) : Except Fault (List Field) := readPresent r.fields

end Sys2Proof.Machine
end

