-- ==== Sys2Proof/Machine/Codec.lean ====
section
/-! DEFINITION. The Checksum/Codec: the checksum function, frame construction, and the commands
CHECKSUM, ENCODE, READ_REQ and WRITE_REQ (R100 to R104, R89). -/

namespace Sys2Proof.Machine

/-- The sum of the byte values of a payload: an integer sum that does not wrap (R9, R100). -/
def byteSum : List Byte → Nat
  | [] => 0
  | b :: bs => b.toNat + byteSum bs

/-- `s = d + rw + a + (P[0] + ... + P[N-1]) + length`, with `length = N + 2` (R100). -/
def checksumSum (d rw a : Byte) (P : List Byte) : Nat :=
  d.toNat + rw.toNat + a.toNat + byteSum P + (P.length + 2)

/-- `Checksum(d, rw, a, P) = (~s) & 0xFFFF`, with `~` over unbounded integers (R8, R100). -/
def checksum (d rw a : Byte) (P : List Byte) : Half :=
  BitVec.ofInt 16 (~~~ (checksumSum d rw a P : Int))

/-- `Encode(d, rw, a, P)`: header, length byte, fields, payload, checksum low byte first (R103). -/
def encodeFrame (d rw a : Byte) (P : List Byte) : List Byte :=
  [headerLow, headerHigh, countByte (P.length + 2), d, rw, a] ++ P ++
    [lowByte (checksum d rw a P), highByte (checksum d rw a P)]

/-- The response of CHECKSUM (R102). -/
def checksumResponse (d rw a : Byte) (P : List Byte) : Response :=
  if maxPayload < P.length then .alone .errPayloadTooLong
  else { status := .ok, checksum := some (checksum d rw a P) }

/-- The response of ENCODE (R104). -/
def encodeResponse (d rw a : Byte) (P : List Byte) : Response :=
  if maxPayload < P.length then .alone .errPayloadTooLong
  else { status := .ok, frameBytes := some (encodeFrame d rw a P) }

/-- **CHECKSUM** (R102). -/
def execChecksum (d rw a : Byte) (P : List Byte) (s : State) : Host.Outcome State Fault Refusal :=
  .next (s.respond (checksumResponse d rw a P))

/-- **ENCODE** (R104). Any byte is accepted in `d`, `rw` and `a` (R64). -/
def execEncode (d rw a : Byte) (P : List Byte) (s : State) : Host.Outcome State Fault Refusal :=
  .next (s.respond (encodeResponse d rw a P))

/-- **READ_REQ**, which expands to `ENCODE d, READ, a, [n]` (R89). -/
def execReadReq (d a n : Byte) (s : State) : Host.Outcome State Fault Refusal :=
  .next (s.respond (encodeResponse d readCode a [n]))

/-- **WRITE_REQ**, which expands to `ENCODE d, WRITE, a, [P]` (R89). -/
def execWriteReq (d a : Byte) (P : List Byte) (s : State) : Host.Outcome State Fault Refusal :=
  .next (s.respond (encodeResponse d writeCode a P))

end Sys2Proof.Machine
end

