-- ==== Sys2Proof/Machine/Decoder.lean ====
section
/-! DEFINITION. The Attribute Decoder: the 15 layouts (R175 to R189), extraction (R174), conversion
(R171), the size check (R172), and DECODE with its 15 rows (R170). -/

namespace Sys2Proof.Machine

/-- A field descriptor `{fid, off, type, conv}` (R74). An integer field has an integer type and
conversion, a `BYTES(n)` field is `TEXT`, and a `RSVD(n)` field has neither name nor conversion; the
field id follows from the position in the layout (R173). -/
inductive FieldDesc where
  | num (off : Nat) (ty : NumType) (name : FieldName) (conv : NumConv)
  | text (off n : Nat) (name : FieldName)
  | rsvd (off n : Nat)
deriving DecidableEq, Repr

/-- The width of an integer type in bytes (R74). -/
def NumType.width : NumType → Nat
  | .u8 => 1
  | .u16 => 2
  | .i16 => 2
  | .u32 => 4

/-- The byte offset of a field in the payload (R74). -/
def FieldDesc.off : FieldDesc → Nat
  | .num off _ _ _ => off
  | .text off _ _ => off
  | .rsvd off _ => off

/-- The width of a field in bytes (R74). -/
def FieldDesc.width : FieldDesc → Nat
  | .num _ ty _ _ => ty.width
  | .text _ n _ => n
  | .rsvd _ n => n

/-- The layout of DISTANCE_LEFT (R175). -/
def layoutDistanceLeft : List FieldDesc := [.num 0 .u16 .distanceLeftKm (.div 100 .km)]

/-- The layout of SPEED (R176). -/
def layoutSpeed : List FieldDesc := [.num 0 .i16 .speedKmh (.div 100 .kmPerHour)]

/-- The layout of TRIP_DISTANCE (R177). -/
def layoutTripDistance : List FieldDesc := [.num 0 .u16 .tripDistanceM (.ident .metre)]

/-- The layout of TAIL_LIGHT (R178). -/
def layoutTailLight : List FieldDesc := [.num 0 .u16 .isTailLightOn (.eq 2)]

/-- The layout of CRUISE (R179). -/
def layoutCruise : List FieldDesc := [.num 0 .u16 .isCruiseOn (.eq 1)]

/-- The layout of GET_LOCK (R180). -/
def layoutGetLock : List FieldDesc := [.num 0 .u16 .isLockOn (.eq 2)]

/-- The layout of BATTERY_VOLTAGE (R181). -/
def layoutBatteryVoltage : List FieldDesc := [.num 0 .u16 .batteryVoltage (.div 100 .volt)]

/-- The layout of BATTERY_CURRENT (R182). -/
def layoutBatteryCurrent : List FieldDesc := [.num 0 .i16 .batteryCurrent (.div 100 .ampere)]

/-- The layout of BATTERY_PERCENT (R183). -/
def layoutBatteryPercent : List FieldDesc := [.num 0 .u16 .batteryPercent (.ident .percent)]

/-- The layout of BATTERY_INFO (R184). -/
def layoutBatteryInfo : List FieldDesc :=
  [.num 0 .u16 .capacity (.div 1000 .ampereHour),
   .num 2 .u16 .percent (.ident .percent),
   .num 4 .i16 .current (.div 100 .ampere),
   .num 6 .u16 .voltage (.div 100 .volt),
   .num 8 .u8 .temp1 (.add (-20) .celsius),
   .num 9 .u8 .temp2 (.add (-20) .celsius)]

/-- The layout of BATTERY_CELL_VOLTAGES: ten cells, then seven reserved bytes (R185). -/
def layoutBatteryCellVoltages : List FieldDesc :=
  (List.range 10).map (fun j => .num (2 * j) .u16 (.cellVoltage j) (.div 100 .volt)) ++ [.rsvd 20 7]

/-- The layout of GENERAL_INFO (R186). -/
def layoutGeneralInfo : List FieldDesc :=
  [.text 0 14 .serial, .text 14 6 .pin, .num 20 .u16 .version .nibbles3]

/-- The layout of MOTOR_INFO (R187). -/
def layoutMotorInfo : List FieldDesc :=
  [.rsvd 0 8,
   .num 8 .u16 .batteryPercent (.ident .percent),
   .num 10 .i16 .speed (.div 100 .kmPerHour),
   .num 12 .u16 .speedAvg (.div 100 .kmPerHour),
   .num 14 .u32 .odometer (.div 1000 .km),
   .num 18 .i16 .tripDistanceM (.ident .metre),
   .num 20 .i16 .uptimeS (.ident .second),
   .num 22 .i16 .frameTemp (.div 10 .celsius),
   .rsvd 24 8]

/-- The layout of TRIP_INFO (R188). -/
def layoutTripInfo : List FieldDesc :=
  [.num 0 .u16 .uptimeS (.ident .second),
   .num 2 .u32 .tripDistanceM (.ident .metre),
   .rsvd 6 2,
   .num 8 .i16 .frameTemp (.div 10 .celsius)]

/-- The layout of SUPPLEMENTARY (R189). -/
def layoutSupplementary : List FieldDesc :=
  [.num 0 .u16 .kersMode (.ident .none),
   .num 2 .u16 .cruise (.eq 1),
   .num 4 .u16 .tailLight (.eq 2)]

/-- `LAYOUT[k]` (R25, R170). -/
def layout : AttrKind → List FieldDesc
  | .distanceLeft => layoutDistanceLeft
  | .speed => layoutSpeed
  | .tripDistance => layoutTripDistance
  | .tailLight => layoutTailLight
  | .cruise => layoutCruise
  | .getLock => layoutGetLock
  | .batteryVoltage => layoutBatteryVoltage
  | .batteryCurrent => layoutBatteryCurrent
  | .batteryPercent => layoutBatteryPercent
  | .batteryInfo => layoutBatteryInfo
  | .batteryCellVoltages => layoutBatteryCellVoltages
  | .generalInfo => layoutGeneralInfo
  | .motorInfo => layoutMotorInfo
  | .tripInfo => layoutTripInfo
  | .supplementary => layoutSupplementary

/-- `SIZE[k]`, the payload size in bytes (R70, R191). -/
def payloadSize : AttrKind → Nat
  | .distanceLeft => 2
  | .speed => 2
  | .tripDistance => 2
  | .tailLight => 2
  | .cruise => 2
  | .getLock => 2
  | .batteryVoltage => 2
  | .batteryCurrent => 2
  | .batteryPercent => 2
  | .batteryInfo => 10
  | .batteryCellVoltages => 27
  | .generalInfo => 22
  | .motorInfo => 32
  | .tripInfo => 10
  | .supplementary => 6

/-- `Extract(P, off, type)` of an integer type (R11, R174). -/
def extract (P : List Byte) (off : Nat) : NumType → Int
  | .u8 => (byteAt P off).toNat
  | .u16 => (le16 P off).toNat
  | .i16 => (le16 P off).toInt
  | .u32 => (le32 P off).toNat

/-- `raw[hi:hi-3]` of a `u16`, a hex digit (R8, R186). -/
def nibble (raw : Int) (lo : Nat) : BitVec 4 := (BitVec.ofInt 16 raw).extractLsb' lo 4

/-- `Convert(raw, conv)` of an integer field (R171). -/
def convert (raw : Int) : NumConv → Value
  | .ident u => .int raw u
  | .div d u => .ratio raw d u
  | .add k u => .int (raw + k) u
  | .eq K => .bool (raw == K)
  | .nibbles3 => .nibbles (nibble raw 8) (nibble raw 4) (nibble raw 0)

/-- The ASCII code of one lowercase hex digit `0-9a-f` (R186). -/
def hexDigit (v : BitVec 4) : Byte :=
  if v.toNat < 10 then BitVec.ofNat 8 (0x30 + v.toNat) else BitVec.ofNat 8 (0x57 + v.toNat)

/-- The text form of a version: `"V" ++ hex(v2) ++ "." ++ hex(v1) ++ "." ++ hex(v0)`, as ASCII bytes
(R186). -/
def versionText (v2 v1 v0 : BitVec 4) : List Byte :=
  [0x56#8, hexDigit v2, 0x2E#8, hexDigit v1, 0x2E#8, hexDigit v0]

/-- The decoded fields of a layout, the next of which has index `j`. A reserved field is not read and
takes no index (R75, R170, R173). -/
def decodeFieldsFrom (k : AttrKind) (P : List Byte) : Nat → List FieldDesc → List Field
  | _, [] => []
  | j, .num off ty name conv :: ds =>
    { fid := { kind := k, index := j }, name := name, raw := .num (extract P off ty),
      conv := .num conv, value := convert (extract P off ty) conv } ::
      decodeFieldsFrom k P (j + 1) ds
  | j, .text off n name :: ds =>
    { fid := { kind := k, index := j }, name := name, raw := .bytes (slice P off (off + n)),
      conv := .text, value := .text (slice P off (off + n)) } ::
      decodeFieldsFrom k P (j + 1) ds
  | j, .rsvd _ _ :: ds => decodeFieldsFrom k P j ds

/-- Decoding a payload under a known kind: the size check, then the fields (R170, R172). -/
def decodeKind (k : AttrKind) (P : List Byte) : DecodeResult :=
  if P.length ≠ payloadSize k then { dstatus := .lengthMismatch }
  else { dstatus := .decoded, kind := some k, fields := some (decodeFieldsFrom k P 0 (layout k)) }

/-- `Decode(d, a, P)` (R170). -/
def decodePayload (p : Params) (d a : Byte) (P : List Byte) : DecodeResult :=
  match lookup p d a with
  | none => { dstatus := .unhandled }
  | some k => decodeKind k P

/-- The response of DECODE: the decode result, its status as the response's (R83). -/
def decodeResponse (r : DecodeResult) : Response :=
  { status := r.dstatus, kind := r.kind, fields := r.fields }

/-- **DECODE** (R170). -/
def execDecode (d a : Byte) (P : List Byte) (s : State) : Host.Outcome State Fault Refusal :=
  .next (s.respond (decodeResponse (decodePayload s.params d a P)))

/-- **DECODE.DISTANCE_LEFT** (R175). -/
def execDecodeDistanceLeft (P : List Byte) (s : State) : Host.Outcome State Fault Refusal :=
  .next (s.respond (decodeResponse (decodeKind .distanceLeft P)))

/-- **DECODE.SPEED** (R176). -/
def execDecodeSpeed (P : List Byte) (s : State) : Host.Outcome State Fault Refusal :=
  .next (s.respond (decodeResponse (decodeKind .speed P)))

/-- **DECODE.TRIP_DISTANCE** (R177). -/
def execDecodeTripDistance (P : List Byte) (s : State) : Host.Outcome State Fault Refusal :=
  .next (s.respond (decodeResponse (decodeKind .tripDistance P)))

/-- **DECODE.TAIL_LIGHT** (R178). -/
def execDecodeTailLight (P : List Byte) (s : State) : Host.Outcome State Fault Refusal :=
  .next (s.respond (decodeResponse (decodeKind .tailLight P)))

/-- **DECODE.CRUISE** (R179). -/
def execDecodeCruise (P : List Byte) (s : State) : Host.Outcome State Fault Refusal :=
  .next (s.respond (decodeResponse (decodeKind .cruise P)))

/-- **DECODE.GET_LOCK** (R180). -/
def execDecodeGetLock (P : List Byte) (s : State) : Host.Outcome State Fault Refusal :=
  .next (s.respond (decodeResponse (decodeKind .getLock P)))

/-- **DECODE.BATTERY_VOLTAGE** (R181). -/
def execDecodeBatteryVoltage (P : List Byte) (s : State) : Host.Outcome State Fault Refusal :=
  .next (s.respond (decodeResponse (decodeKind .batteryVoltage P)))

/-- **DECODE.BATTERY_CURRENT** (R182). -/
def execDecodeBatteryCurrent (P : List Byte) (s : State) : Host.Outcome State Fault Refusal :=
  .next (s.respond (decodeResponse (decodeKind .batteryCurrent P)))

/-- **DECODE.BATTERY_PERCENT** (R183). -/
def execDecodeBatteryPercent (P : List Byte) (s : State) : Host.Outcome State Fault Refusal :=
  .next (s.respond (decodeResponse (decodeKind .batteryPercent P)))

/-- **DECODE.BATTERY_INFO** (R184). -/
def execDecodeBatteryInfo (P : List Byte) (s : State) : Host.Outcome State Fault Refusal :=
  .next (s.respond (decodeResponse (decodeKind .batteryInfo P)))

/-- **DECODE.BATTERY_CELL_VOLTAGES** (R185). -/
def execDecodeBatteryCellVoltages (P : List Byte) (s : State) : Host.Outcome State Fault Refusal :=
  .next (s.respond (decodeResponse (decodeKind .batteryCellVoltages P)))

/-- **DECODE.GENERAL_INFO** (R186). -/
def execDecodeGeneralInfo (P : List Byte) (s : State) : Host.Outcome State Fault Refusal :=
  .next (s.respond (decodeResponse (decodeKind .generalInfo P)))

/-- **DECODE.MOTOR_INFO** (R187). -/
def execDecodeMotorInfo (P : List Byte) (s : State) : Host.Outcome State Fault Refusal :=
  .next (s.respond (decodeResponse (decodeKind .motorInfo P)))

/-- **DECODE.TRIP_INFO** (R188). -/
def execDecodeTripInfo (P : List Byte) (s : State) : Host.Outcome State Fault Refusal :=
  .next (s.respond (decodeResponse (decodeKind .tripInfo P)))

/-- **DECODE.SUPPLEMENTARY** (R189). -/
def execDecodeSupplementary (P : List Byte) (s : State) : Host.Outcome State Fault Refusal :=
  .next (s.respond (decodeResponse (decodeKind .supplementary P)))

end Sys2Proof.Machine
end

