-- ==== Sys2Proof/Machine/Parser.lean ====
section
/-! DEFINITION. The Frame Parser: the parse function of R120 and the command PARSE (R127). -/

namespace Sys2Proof.Machine

/-- The pair `(status, frame)` that `Parse` returns: a frame exactly when the status is OK (R120). -/
inductive ParseResult where
  | ok (f : Frame)
  | invalidHeader
  | disjointed
  | invalidChecksum
deriving DecidableEq, Repr

/-- The status of a parse (R84, R120). -/
def ParseResult.status : ParseResult → Status
  | .ok _ => .ok
  | .invalidHeader => .invalidHeader
  | .disjointed => .disjointed
  | .invalidChecksum => .invalidChecksum

/-- A byte present among the first two differs from the header constant (R121). -/
def headerMismatch (B : List Byte) : Bool :=
  (decide (1 ≤ B.length) && byteAt B 0 != headerLow) ||
    (decide (2 ≤ B.length) && byteAt B 1 != headerHigh)

/-- The fields and the verification of a sequence that holds a whole frame with length byte
`N + 2` (R125, R126). -/
def parseComplete (B : List Byte) (N : Nat) : ParseResult :=
  let P := slice B headerLength (headerLength + N)
  if le16 B (headerLength + N) ≠ checksum (byteAt B 3) (byteAt B 4) (byteAt B 5) P then
    .invalidChecksum
  else
    .ok { direction := byteAt B 3, readWrite := byteAt B 4, attrCode := byteAt B 5, payload := P,
          rawBytes := slice B 0 (headerLength + N + 2) }

/-- `Parse(B)`, in the order of R120 and R128. -/
def parse (B : List Byte) : ParseResult :=
  if headerMismatch B then .invalidHeader
  else if B.length < headerLength then .disjointed
  else
    let L := (byteAt B 2).toNat
    if L < 2 then .invalidChecksum
    else if B.length < headerLength + L then .disjointed
    else parseComplete B (L - 2)

/-- The response of PARSE for a parse result (R127). -/
def parseResponse : ParseResult → Response
  | .ok f => { status := .ok, frame := some f }
  | .invalidHeader => .alone .invalidHeader
  | .disjointed => .alone .disjointed
  | .invalidChecksum => .alone .invalidChecksum

/-- **PARSE** (R127), with the length limit of R85. -/
def execParse (B : List Byte) (s : State) : Host.Outcome State Fault Refusal :=
  if s.params.parseMax < B.length then .next (s.respond (.alone .rejectedTooLong))
  else .next (s.respond (parseResponse (parse B)))

end Sys2Proof.Machine
end

