-- ==== Sys2Proof/Machine/Reassembler.lean ====
section
/-! DEFINITION. The Fragment Reassembler: the steps of PUSH (R141 to R151) and the command (R150). -/

namespace Sys2Proof.Machine

/-- Whether an entry expires at the start of a PUSH (R141). -/
def expires (p : Params) (e : Entry) : Bool := 0 < p.pendMaxAge && p.pendMaxAge ≤ e.age.val

/-- The entries the expiry step keeps, in their order (R141). -/
def unexpired (p : Params) (es : List Entry) : List Entry := es.filter fun e => !expires p e

/-- One PUSH older, saturating at 255 (R151). -/
def Entry.older (e : Entry) : Entry :=
  { e with age := ⟨min (e.age.val + 1) 255, Nat.lt_succ_of_le (Nat.min_le_right _ _)⟩ }

/-- Ageing of entries that were there after the expiry step and still are (R151). -/
def ageAll (es : List Entry) : List Entry := es.map Entry.older

/-- The combination scan: the first entry, oldest first, whose bytes followed by the chunk parse OK,
with its index and the frame (R147). -/
def firstComplete (C : List Byte) : List Entry → Option (Nat × Frame)
  | [] => none
  | e :: es =>
    match parse (e.bytes ++ C) with
    | .ok f => some (0, f)
    | _ => (firstComplete C es).map fun (i, f) => (i + 1, f)

/-- The accumulation scan: the first entry whose bytes followed by the chunk parse DISJOINTED (R149). -/
def firstExtended (C : List Byte) (es : List Entry) : Option Nat :=
  es.findIdx? fun e => parse (e.bytes ++ C) == .disjointed

/-- The entry at index `i` grows by the chunk, and its age becomes 0 (R149). -/
def growAt (C : List Byte) (es : List Entry) (i : Nat) : List Entry :=
  es.modify i fun e => { bytes := e.bytes ++ C, age := 0 }

/-- `Decode` of a dispatched frame (R143, R148, R157). -/
def decodeFrame (p : Params) (f : Frame) : DecodeResult :=
  decodePayload p f.direction f.attrCode f.payload

/-- The store after an INVALID_HEADER chunk and the response without its common fields (R147 to
R149), from the entries the expiry step left. -/
def pushTail (p : Params) (es : List Entry) (C : List Byte) : List Entry × Response :=
  match firstComplete C es with
  | some (i, f) =>
    (ageAll (es.eraseIdx i),
      { status := .dispatchedCombined, index := some i, frame := some f,
        decode := some (decodeFrame p f) })
  | none =>
    match (if p.accumulate then firstExtended C es else none) with
    | some i => (growAt C (ageAll es) i, { status := .accumulated, index := some i })
    | none => (ageAll es, { status := .discardedNoMatch })

/-- The oldest entry is evicted when the store is full (R145, R146). -/
def evictIfFull (p : Params) (es : List Entry) : List Entry :=
  if es.length = p.pendDepth then es.drop 1 else es

/-- The store after a chunk with this parse result, the response without its common fields, and
`evicted`, from the entries the expiry step left (R142 to R149, R151). -/
def pushByStatus (p : Params) (es : List Entry) (C : List Byte) :
    ParseResult → List Entry × Response × Nat
  | .ok f =>
    (ageAll es,
      { status := .dispatchedDirect, frame := some f, decode := some (decodeFrame p f) }, 0)
  | .invalidChecksum => (ageAll es, { status := .discardedChecksum }, 0)
  | .disjointed =>
    (ageAll (evictIfFull p es) ++ [{ bytes := C, age := 0 }], { status := .buffered },
      if es.length = p.pendDepth then 1 else 0)
  | .invalidHeader => ((pushTail p es C).1, (pushTail p es C).2, 0)

/-- PUSH of a chunk that is neither too long nor empty: the new store and the response (R150). -/
def pushChunk (p : Params) (pend : List Entry) (C : List Byte) : List Entry × Response :=
  let es := unexpired p pend
  let res := pushByStatus p es C (parse C)
  (res.1,
    { res.2.1 with
      parseStatus := some (parse C).status
      evicted := some res.2.2
      expired := some (pend.length - es.length) })

/-- **PUSH** (R150), with the length limit of R85 and the empty chunk of R152. -/
def execPush (C : List Byte) (s : State) : Host.Outcome State Fault Refusal :=
  if s.params.chunkMax < C.length then .next (s.respond (.alone .rejectedTooLong))
  else if C.isEmpty then
    .next (s.respond { status := .ignoredEmpty, evicted := some 0, expired := some 0 })
  else
    .next ((s.setPend (pushChunk s.params s.pend C).1).respond (pushChunk s.params s.pend C).2)

end Sys2Proof.Machine
end

