-- ==== Sys2Proof/Machine/Reserved.lean ====
section
/-! DEFINITION. The reserved opcodes: REJECTED_BAD_OPCODE, no state change, not a trap (R85, R87).
Each row of the opcode table has its own definition. -/

namespace Sys2Proof.Machine

/-- A reserved opcode's response (R87). -/
def badOpcode : Response := .alone .rejectedBadOpcode

/-- **(reserved)** 0x00 (R87). -/
def execReserved00 (_rest : List Byte) (s : State) : Host.Outcome State Fault Refusal :=
  .next (s.respond badOpcode)

/-- **(reserved)** 0x06 and 0x07 (R87). -/
def execReserved06 (_lo : BitVec 1) (_rest : List Byte) (s : State) :
    Host.Outcome State Fault Refusal := .next (s.respond badOpcode)

/-- **(reserved)** 0x08 to 0x0F (R87). -/
def execReserved08 (_lo : BitVec 3) (_rest : List Byte) (s : State) :
    Host.Outcome State Fault Refusal := .next (s.respond badOpcode)

/-- **(reserved)** 0x10 to 0x1F (R87). -/
def execReserved10 (_lo : BitVec 4) (_rest : List Byte) (s : State) :
    Host.Outcome State Fault Refusal := .next (s.respond badOpcode)

/-- **(reserved)** 0x20 to 0x3F (R87). -/
def execReserved20 (_lo : BitVec 5) (_rest : List Byte) (s : State) :
    Host.Outcome State Fault Refusal := .next (s.respond badOpcode)

/-- **(reserved)** 0x40 to 0x7F (R87). -/
def execReserved40 (_lo : BitVec 6) (_rest : List Byte) (s : State) :
    Host.Outcome State Fault Refusal := .next (s.respond badOpcode)

/-- **(reserved)** 0x80 to 0xFF (R87). -/
def execReserved80 (_lo : BitVec 7) (_rest : List Byte) (s : State) :
    Host.Outcome State Fault Refusal := .next (s.respond badOpcode)

end Sys2Proof.Machine
end

