-- ==== Sys2Proof/Machine/Dispatch.lean ====
section
/-! DEFINITION. One arm per constructor of Instr: which meaning runs which instruction. -/

namespace Sys2Proof.Machine

def exec (i : Instr) (s : State) : Host.Outcome State Fault Refusal :=
  match i with
  | .checksum d rw a P => Sys2Proof.Machine.execChecksum d rw a P s
  | .encode d rw a P => Sys2Proof.Machine.execEncode d rw a P s
  | .parse B => Sys2Proof.Machine.execParse B s
  | .push C => Sys2Proof.Machine.execPush C s
  | .decode d a P => Sys2Proof.Machine.execDecode d a P s
  | .readReq d a n => Sys2Proof.Machine.execReadReq d a n s
  | .writeReq d a P => Sys2Proof.Machine.execWriteReq d a P s
  | .reserved00 rest => Sys2Proof.Machine.execReserved00 rest s
  | .reserved06 lo rest => Sys2Proof.Machine.execReserved06 lo rest s
  | .reserved08 lo rest => Sys2Proof.Machine.execReserved08 lo rest s
  | .reserved10 lo rest => Sys2Proof.Machine.execReserved10 lo rest s
  | .reserved20 lo rest => Sys2Proof.Machine.execReserved20 lo rest s
  | .reserved40 lo rest => Sys2Proof.Machine.execReserved40 lo rest s
  | .reserved80 lo rest => Sys2Proof.Machine.execReserved80 lo rest s
  | .decodeDistanceLeft P => Sys2Proof.Machine.execDecodeDistanceLeft P s
  | .decodeSpeed P => Sys2Proof.Machine.execDecodeSpeed P s
  | .decodeTripDistance P => Sys2Proof.Machine.execDecodeTripDistance P s
  | .decodeTailLight P => Sys2Proof.Machine.execDecodeTailLight P s
  | .decodeCruise P => Sys2Proof.Machine.execDecodeCruise P s
  | .decodeGetLock P => Sys2Proof.Machine.execDecodeGetLock P s
  | .decodeBatteryVoltage P => Sys2Proof.Machine.execDecodeBatteryVoltage P s
  | .decodeBatteryCurrent P => Sys2Proof.Machine.execDecodeBatteryCurrent P s
  | .decodeBatteryPercent P => Sys2Proof.Machine.execDecodeBatteryPercent P s
  | .decodeBatteryInfo P => Sys2Proof.Machine.execDecodeBatteryInfo P s
  | .decodeBatteryCellVoltages P => Sys2Proof.Machine.execDecodeBatteryCellVoltages P s
  | .decodeGeneralInfo P => Sys2Proof.Machine.execDecodeGeneralInfo P s
  | .decodeMotorInfo P => Sys2Proof.Machine.execDecodeMotorInfo P s
  | .decodeTripInfo P => Sys2Proof.Machine.execDecodeTripInfo P s
  | .decodeSupplementary P => Sys2Proof.Machine.execDecodeSupplementary P s

end Sys2Proof.Machine
end

