-- ==== Sys2Proof/Machine/Port.lean ====
section
/-! DEFINITION. Taking one event from the port: running a presented command (R80, R85), and reset (R250,
R251). The state these functions take has the event already removed from its port. -/

namespace Sys2Proof.Machine

/-- A command that is not well formed: REJECTED_MALFORMED, no state change (R85). -/
def rejectMalformed (s : State) : Host.Outcome State Fault Refusal :=
  .next (s.respond (.alone .rejectedMalformed))

/-- The index of the first stored entry that does not parse DISJOINTED (R23). -/
def badEntry (s : State) : Option Nat := s.pend.findIdx? fun e => parse e.bytes != .disjointed

/-- Running a command's bytes: the rejections of R85, or the decoded instruction. A store that breaks
R23 is a fault of the model (M5). -/
def runCommand (cmd : List Byte) (s : State) : Host.Outcome State Fault Refusal :=
  match badEntry s with
  | some i => .fault (.entryNotDisjointed i)
  | none =>
    match decode s.params cmd with
    | .ok i => exec i s
    | .error _ => rejectMalformed s

/-- Reset between commands (R250). -/
def takeReset (s : State) : Host.Outcome State Fault Refusal := .next s.clearStore

/-- Reset while a command runs: no response, no write kept, and the reset state (R251). -/
def takeResetDuring (_cmd : List Byte) (s : State) : Host.Outcome State Fault Refusal :=
  .next s.clearStore

/-- The effect of one host event. -/
def takeEvent (ev : HostEvent) (s : State) : Host.Outcome State Fault Refusal :=
  match ev with
  | .command cmd => runCommand cmd s
  | .reset => takeReset s
  | .resetDuring cmd => takeResetDuring cmd s

/-- The next event of the port and the state without it; none when the host has presented nothing. -/
def fetch (s : State) : Option (HostEvent × State) :=
  match s.port with
  | [] => none
  | ev :: rest => some (ev, s.setPort rest)

/-- A command presented as the next event of the port. -/
def State.presentCommand (s : State) (cmd : List Byte) : State := s.setPort (.command cmd :: s.port)

end Sys2Proof.Machine
end

