-- ==== Sys2Proof/Machine/Step.lean ====
section
/-! DEFINITION. One step: the next event of the port takes effect (R48, R49, R80). -/

namespace Sys2Proof.Machine

/-- One step. An instance with illegal parameters is not built (M3, M4). With nothing presented the
machine is idle and keeps its state (R232). Otherwise the next event takes effect, atomically. -/
def step (s : State) : Host.Outcome State Fault Refusal :=
  if s.params.Legal then
    match fetch s with
    | none => .next s
    | some (ev, t) => takeEvent ev t
  else .refused .instanceNotBuilt

/-- The state with the command of an opcode-table row presented at the port, before anything the host
has presented already, so that the next step runs it (notes/assumptions/1.md, 7.md). -/
def State.withFetchWord (s : State) (nbits w : Nat) : State := s.presentCommand (tableCommand nbits w)

end Sys2Proof.Machine
end

