-- ==== Sys2Proof/Safety.lean ====
section
/-! DEFINITION. What a sound state and a safe step are, and the spec's own words that the statements
use: the rejections of R85 read straight from the command's bytes, the entries an expiry leaves, and
what R175 to R189 have in common. Nothing here is part of the step. -/

namespace Sys2Proof.Machine

/-- The invariant of a stored entry: it parses DISJOINTED (R23). -/
def Entry.Sound (e : Entry) : Prop := parse e.bytes = .disjointed

/-- The invariant of the pending store: at most `P_PEND_DEPTH` entries (R21), each of 1 to 260 bytes
(R22) and parsing DISJOINTED (R23). -/
structure StoreSound (p : Params) (es : List Entry) : Prop where
  depth : es.length ≤ p.pendDepth
  sound : ∀ e ∈ es, e.Sound
  nonempty : ∀ e ∈ es, 1 ≤ e.bytes.length
  bounded : ∀ e ∈ es, e.bytes.length ≤ 260

/-- The invariant of the machine: the parameters are legal (R6, R72) and the store is sound. -/
structure State.Sound (s : State) : Prop where
  legal : s.params.Legal
  store : StoreSound s.params s.pend

/-- A step is safe when it answers a next state: no fault and no refusal (R220). -/
def SafeStep (s : State) : Prop := ∃ t, step s = .next t

/-- A reserved opcode: 0x00, or 0x06 to 0xFF (R81, R87). -/
def reservedOpcode (op : Byte) : Bool := op.toNat = 0 || 6 ≤ op.toNat

/-- The fixed part of the format of an opcode: 5 for FIELDS, 3 for STREAM, 4 for DFIELDS (R82, R85). -/
def fixedPart (op : Byte) : Nat :=
  if op.toNat ≤ 2 then 5 else if op.toNat ≤ 4 then 3 else 4

/-- The 16-bit count `n` of a STREAM command (R82). -/
def streamCount (cmd : List Byte) : Nat := (byteAt cmd 1).toNat + 256 * (byteAt cmd 2).toNat

/-- The total length that the format of `CMD[0]` gives, from the command's own count (R82). -/
def formatLength (cmd : List Byte) : Nat :=
  let op := (byteAt cmd 0).toNat
  if op ≤ 2 then 5 + (byteAt cmd 4).toNat
  else if op ≤ 4 then 3 + streamCount cmd
  else 4 + (byteAt cmd 3).toNat

/-- The command's own length limit: the status it is rejected with, if its count is over it (R85,
check 4). -/
def lengthLimit (p : Params) (cmd : List Byte) : Option Status :=
  let op := (byteAt cmd 0).toNat
  if op ≤ 2 then if 253 < (byteAt cmd 4).toNat then some .errPayloadTooLong else none
  else if op = 3 then if p.parseMax < streamCount cmd then some .rejectedTooLong else none
  else if op = 4 then if p.chunkMax < streamCount cmd then some .rejectedTooLong else none
  else none

/-- The status a command is rejected with, if any: the checks of R85 in its order, read from the
command's bytes without decoding them. -/
def rejection (p : Params) (cmd : List Byte) : Option Status :=
  if cmd.length = 0 then some .rejectedMalformed
  else if reservedOpcode (byteAt cmd 0) then some .rejectedBadOpcode
  else if cmd.length < fixedPart (byteAt cmd 0) ∨ cmd.length ≠ formatLength cmd then
    some .rejectedMalformed
  else lengthLimit p cmd

/-- The statuses of R85: the command was rejected. -/
def Status.isRejection : Status → Bool
  | .rejectedBadOpcode => true
  | .rejectedMalformed => true
  | .rejectedTooLong => true
  | .errPayloadTooLong => true
  | _ => false

/-- The entries that are left after the expiry step: all of them when `P_PEND_MAX_AGE = 0`, otherwise
those younger than it (R141). -/
def survivors (p : Params) (es : List Entry) : List Entry :=
  if p.pendMaxAge = 0 then es else es.filter fun e => e.age.val < p.pendMaxAge

/-- The number of entries the expiry step removes (R141). -/
def expiredCount (p : Params) (es : List Entry) : Nat :=
  if p.pendMaxAge = 0 then 0 else es.countP fun e => p.pendMaxAge ≤ e.age.val

/-- A PUSH response with the fields that every PUSH neither rejected nor IGNORED_EMPTY has (R83). -/
def pushReply (st parseSt : Status) (evicted expired : Nat) : Response where
  status := st
  parseStatus := some parseSt
  evicted := some evicted
  expired := some expired

/-- A PUSH response that carries a dispatched frame and its decode result (R83, R157). -/
def dispatchReply (p : Params) (r : Response) (f : Frame) : Response :=
  { r with frame := some f, decode := some (decodePayload p f.direction f.attrCode f.payload) }

/-- The integer sum of a payload's bytes (R100). -/
def payloadSum (P : List Byte) : Nat := (P.map BitVec.toNat).sum

/-- The sum `s` of R100. -/
def fieldSum (d rw a : Byte) (P : List Byte) : Nat :=
  d.toNat + rw.toNat + a.toNat + payloadSum P + (P.length + 2)

/-- The value of a little-endian `u16` (R11). -/
def u16Value (b0 b1 : Byte) : Int := b0.toNat + 256 * b1.toNat

/-- The value of a little-endian `i16`: two's complement (R11). -/
def i16Value (b0 b1 : Byte) : Int :=
  if 32768 ≤ u16Value b0 b1 then u16Value b0 b1 - 65536 else u16Value b0 b1

/-- The value of a little-endian `u32` (R11). -/
def u32Value (b0 b1 b2 b3 : Byte) : Int := u16Value b0 b1 + 65536 * u16Value b2 b3

/-- The response DECODED of a kind with these fields (R83, R170). -/
def decodedResponse (k : AttrKind) (fs : List Field) : Response :=
  { status := .decoded, kind := some k, fields := some fs }

/-- An integer field of a decoded record (R170, R173). -/
def numField (k : AttrKind) (j : Nat) (name : FieldName) (raw : Int) (conv : NumConv)
    (value : Value) : Field :=
  { fid := { kind := k, index := j }, name := name, raw := .num raw, conv := .num conv,
    value := value }

/-- A byte-string field of a decoded record (R170, R173). -/
def textField (k : AttrKind) (j : Nat) (name : FieldName) (bs : List Byte) : Field :=
  { fid := { kind := k, index := j }, name := name, raw := .bytes bs, conv := .text,
    value := .text bs }

/-- What R175 to R189 say of every kind alike: its default key; the bytes of its command; and
LENGTH_MISMATCH for a payload that is not `size` bytes long. -/
def KindRow (mk : List Byte → Instr) (k : AttrKind) (size : Nat) (dir code : Byte) : Prop :=
  Params.default.key k = (dir, code) ∧
  (∀ p P, encode p (mk P) =
    0x05#8 :: p.attrDir.get k :: p.attrCode.get k :: BitVec.ofNat 8 P.length :: P) ∧
  ∀ P s, P.length ≠ size →
    exec (mk P) s = .next { s with responses := s.responses ++ [{ status := .lengthMismatch }] }

/-- The payload offsets that a kind's layout reserves (R185, R187, R188). -/
def reservedOffset : AttrKind → Nat → Bool
  | .batteryCellVoltages, i => 20 ≤ i && i < 27
  | .motorInfo, i => i < 8 || (24 ≤ i && i < 32)
  | .tripInfo, i => 6 ≤ i && i < 8
  | _, _ => false

/-- The instruction is a PUSH, the one command that reads or writes the pending store (R21, R46). -/
def isPush : Instr → Bool
  | .push _ => true
  | _ => false

/-- A byte sequence with bit `b` of byte `i` flipped (R106, R129). -/
def flipBit (B : List Byte) (i b : Nat) : List Byte :=
  B.set i (byteAt B i ^^^ BitVec.twoPow 8 b)

end Sys2Proof.Machine
end

