-- ==== Sys2Proof/Certificates/Slice0/Obligations.lean ====
section
/-! DEFINITION. The statements for the provers, in the order of OBLIGATIONS.json. Wherever one speaks
of the port or of the list of responses, those are the model's own fields (notes/assumptions/1.md,
2.md). -/

open Sys2Proof Sys2Proof.Machine

/-! ### Reset, the port and the step -/

/-- R30: the state after reset, and what the reset event does to any state of a built machine. That
the later events of the port stay (notes/assumptions/9.md), and the responses already returned
(notes/assumptions/10.md), is the model's choice, not the spec's. -/
def Obligations.ResetEmptiesStoreAndKeepsConstants : Prop :=
  (State.reset.pendCount = 0 ∧ ∀ i, State.reset.readPend i = .error (.noPendingEntry i)) ∧
  ∀ s rest, s.params.Legal → s.port = .reset :: rest →
    step s = .next { s with pend := [], port := rest }

/-- R251: a reset during a command leaves no response to it and no write. That the later events of the
port stay, the next of them first to run (notes/assumptions/9.md), and the responses already returned
(notes/assumptions/10.md), is the model's choice, not the spec's. -/
def Obligations.ResetDuringCommandAbortsIt : Prop :=
  ∀ s cmd rest, s.params.Legal → s.port = .resetDuring cmd :: rest →
    step s = .next { s with pend := [], port := rest }

/-- R232: with nothing presented, the machine keeps its state. That an empty port makes an idle step
is the model's choice (notes/assumptions/1.md). -/
def Obligations.IdleMachineKeepsState : Prop :=
  ∀ s, s.params.Legal → s.port = [] → step s = .next s

/-- R49, R80: a step runs the decoded instruction, on the state with the command taken from the port
(the port is the model's own field, notes/assumptions/1.md). -/
def Obligations.StepRunsDecodedInstruction : Prop :=
  ∀ s cmd rest i, s.params.Legal → (∀ e ∈ s.pend, e.Sound) → s.port = .command cmd :: rest →
    decode s.params cmd = .ok i → step s = exec i { s with port := rest }

/-- R85: the checks that reject a command, in their order, read from the command's bytes. -/
def Obligations.RejectedCommandAnswersOnly : Prop :=
  ∀ s cmd rest st, s.params.Legal → (∀ e ∈ s.pend, e.Sound) → s.port = .command cmd :: rest →
    rejection s.params cmd = some st →
    step s = .next { s with port := rest, responses := s.responses ++ [{ status := st }] }

/-- A command that no check of R85 rejects decodes to a well-formed instruction, and its step answers
one response whose status is no rejection (R80, R82, R85). -/
def Obligations.AcceptedCommandRuns : Prop :=
  ∀ s cmd rest, s.params.Legal → (∀ e ∈ s.pend, e.Sound) → s.port = .command cmd :: rest →
    rejection s.params cmd = none →
    ∃ i t r, decode s.params cmd = .ok i ∧ i.wellFormed s.params = true ∧ step s = .next t ∧
      t.responses = s.responses ++ [r] ∧ r.status.isRejection = false

/-- R220, R80: every step of a sound machine answers a next state; it takes one event, and a command
gets exactly one response while a reset gets none. That a reset takes only itself from the port is the
model's choice (notes/assumptions/9.md, 10.md). -/
def Obligations.SoundMachineNeverStops : Prop :=
  ∀ s, s.Sound → SafeStep s ∧ ∀ t, step s = .next t → t.port = s.port.tail ∧
    ((∃ cmd, s.port.head? = some (.command cmd)) → ∃ r, t.responses = s.responses ++ [r]) ∧
    ((¬ ∃ cmd, s.port.head? = some (.command cmd)) → t.responses = s.responses)

/-- R21, R22, R23, R153: every step keeps the invariant of the machine. -/
def Obligations.StepKeepsSound : Prop :=
  ∀ s t, s.Sound → step s = .next t → t.Sound

/-- The reset state meets the invariant. -/
def Obligations.ResetIsSound : Prop := State.reset.Sound

/-- R21, R26, R235: no step changes the parameters, and only a PUSH command or a reset changes the
pending store. -/
def Obligations.OnlyPushAndResetWriteStore : Prop :=
  ∀ s t, step s = .next t → t.params = s.params ∧
    (t.pend = s.pend ∨ (∃ cmd, s.port.head? = some (.command (0x04#8 :: cmd))) ∨
      s.port.head? = some .reset ∨ ∃ cmd, s.port.head? = some (.resetDuring cmd))

/-- M3, M4, M5: an illegal instance is refused, and a command on a store with an unsound entry is a
fault of the model. Where the model stops for them, in `step`, is its own choice
(notes/assumptions/4.md, 5.md). -/
def Obligations.UnbuiltOrUnsoundMachineStops : Prop :=
  (∀ s, ¬ s.params.Legal → step s = .refused .instanceNotBuilt) ∧
  ∀ s cmd rest, s.params.Legal → s.port = .command cmd :: rest → (∃ e ∈ s.pend, ¬ e.Sound) →
    ∃ i, step s = .fault (.entryNotDisjointed i)

/-- R22, M1: reading an index at or past `PEND_COUNT` is a fault; below it, the entry. -/
def Obligations.PendingReadIsChecked : Prop :=
  ∀ (s : State) i, (∀ h : i < s.pend.length, s.readPend i = .ok s.pend[i]) ∧
    (s.pend.length ≤ i → s.readPend i = .error (.noPendingEntry i))

/-- R46, R28: every command but PUSH only returns a response, and that response is a function of the
command and the parameters: nothing of the store or of an earlier response reaches it. -/
def Obligations.PureCommandIgnoresState : Prop :=
  ∀ i s u, isPush i = false → s.params = u.params →
    ∃ r, exec i s = .next { s with responses := s.responses ++ [r] } ∧
      exec i u = .next { u with responses := u.responses ++ [r] }

/-! ### Encoding -/

/-- Decode and encode agree on every well-formed instruction, under all legal parameters (R82, R86).
That a command has one spelling is the model's choice (notes/assumptions/6.md). -/
def Obligations.DecodeOfEncodeIsIdentity : Prop :=
  ∀ p i, p.Legal → i.wellFormed p = true → decode p (encode p i) = .ok i

/-- A command's bytes have one meaning: what they decode to is well formed and encodes to them (R82,
R86). That a command has one spelling is the model's choice (notes/assumptions/6.md). -/
def Obligations.EncodeOfDecodeIsIdentity : Prop :=
  ∀ p cmd i, decode p cmd = .ok i → i.wellFormed p = true ∧ encode p i = cmd

/-- Command bytes written out from R81, R82 and R89 decode to the instructions they stand for; which
row spells them is the model's choice (notes/assumptions/6.md). -/
def Obligations.SpecWordsDecode : Prop :=
  decode Params.default [0x01#8, 0x22#8, 0x01#8, 0x34#8, 0x01#8, 0x02#8] =
    .ok (.checksum 0x22#8 0x01#8 0x34#8 [0x02#8]) ∧
  decode Params.default [0x02#8, 0x22#8, 0x01#8, 0x31#8, 0x01#8, 0x0A#8] =
    .ok (.readReq 0x22#8 0x31#8 0x0A#8) ∧
  decode Params.default [0x04#8, 0x04#8, 0x00#8, 0x34#8, 0x02#8, 0xA3#8, 0xFF#8] =
    .ok (.push [0x34#8, 0x02#8, 0xA3#8, 0xFF#8]) ∧
  decode Params.default [0x05#8, 0x25#8, 0x34#8, 0x02#8, 0x88#8, 0x13#8] =
    .ok (.decodeBatteryVoltage [0x88#8, 0x13#8]) ∧
  decode Params.default [0xFF#8, 0x01#8] = .ok (.reserved80 0x7F#7 [0x01#8])

/-- The DECODE row of a kind does what DECODE does under the kind's key, for all legal maps (R73,
R170, R190). -/
def Obligations.KindRowsAgreeWithDecode : Prop :=
  ∀ k P s, s.params.Legal →
    exec (.decode (s.params.attrDir.get k) (s.params.attrCode.get k) P) s = exec (k.decodeInstr P) s

/-- R87: every reserved row answers REJECTED_BAD_OPCODE and changes nothing else. -/
def Obligations.ReservedOpcodesAreRejected : Prop :=
  ∀ (s : State) rest, ∃ t,
    t = { s with responses := s.responses ++ [{ status := .rejectedBadOpcode }] } ∧
    exec (.reserved00 rest) s = .next t ∧
    (∀ lo, exec (.reserved06 lo rest) s = .next t) ∧
    (∀ lo, exec (.reserved08 lo rest) s = .next t) ∧
    (∀ lo, exec (.reserved10 lo rest) s = .next t) ∧
    (∀ lo, exec (.reserved20 lo rest) s = .next t) ∧
    (∀ lo, exec (.reserved40 lo rest) s = .next t) ∧
    (∀ lo, exec (.reserved80 lo rest) s = .next t)

/-- R84: the codes of the table, in its order; no two statuses share a code. -/
def Obligations.StatusCodesAreTheTable : Prop :=
  ([Status.ok, .invalidHeader, .disjointed, .invalidChecksum, .ignoredEmpty, .dispatchedDirect,
    .buffered, .dispatchedCombined, .discardedNoMatch, .discardedChecksum, .accumulated, .decoded,
    .unhandled, .lengthMismatch, .rejectedBadOpcode, .rejectedMalformed, .rejectedTooLong,
    .errPayloadTooLong].map Status.code =
    [0x00#8, 0x01#8, 0x02#8, 0x03#8, 0x10#8, 0x11#8, 0x12#8, 0x13#8, 0x14#8, 0x15#8, 0x16#8, 0x20#8,
     0x21#8, 0x22#8, 0xF0#8, 0xF1#8, 0xF2#8, 0xF3#8]) ∧
  ∀ a b : Status, a.code = b.code → a = b

/-! ### Checksum and codec -/

/-- R101: the sum lies in 2 .. 65535, the checksum is 0xFFFF minus it, and is never 0xFFFE or 0xFFFF. -/
def Obligations.ChecksumIsComplementOfSum : Prop :=
  ∀ d rw a P, P.length ≤ 253 →
    (2 ≤ fieldSum d rw a P ∧ fieldSum d rw a P ≤ 65535) ∧
    (checksum d rw a P).toNat = 0xFFFF - fieldSum d rw a P ∧
    checksum d rw a P ≠ 0xFFFE#16 ∧ checksum d rw a P ≠ 0xFFFF#16

/-- R102: CHECKSUM answers OK and the checksum for a payload of at most 253 bytes, otherwise
ERR_PAYLOAD_TOO_LONG, and changes no state. -/
def Obligations.ChecksumCommandResult : Prop :=
  ∀ d rw a P s,
    (P.length ≤ 253 → ∃ c : Half, c.toNat = 0xFFFF - fieldSum d rw a P ∧
      exec (.checksum d rw a P) s =
        .next { s with responses := s.responses ++ [{ status := .ok, checksum := some c }] }) ∧
    (253 < P.length → exec (.checksum d rw a P) s =
      .next { s with responses := s.responses ++ [{ status := .errPayloadTooLong }] })

/-- R103, R104: ENCODE answers the frame of its fields for a payload of at most 253 bytes, otherwise
ERR_PAYLOAD_TOO_LONG, and changes no state. -/
def Obligations.EncodeCommandResult : Prop :=
  ∀ d rw a P s,
    (P.length ≤ 253 →
      let c := 0xFFFF - fieldSum d rw a P
      let F := [0x55#8, 0xAA#8, BitVec.ofNat 8 (P.length + 2), d, rw, a] ++ P ++
        [BitVec.ofNat 8 (c % 256), BitVec.ofNat 8 (c / 256)]
      F.length = P.length + 8 ∧ exec (.encode d rw a P) s =
        .next { s with responses := s.responses ++ [{ status := .ok, frameBytes := some F }] }) ∧
    (253 < P.length → exec (.encode d rw a P) s =
      .next { s with responses := s.responses ++ [{ status := .errPayloadTooLong }] })

/-- R89: READ_REQ and WRITE_REQ are the ENCODE commands they expand to, word for word and effect for
effect, and return a frame. -/
def Obligations.RequestsExpandToEncode : Prop :=
  (∀ p d a n s, encode p (.readReq d a n) = encode p (.encode d 0x01#8 a [n]) ∧
    exec (.readReq d a n) s = exec (.encode d 0x01#8 a [n]) s ∧
    exec (.readReq d a n) s = .next { s with responses := s.responses ++
      [{ status := .ok, frameBytes := some (encodeFrame d 0x01#8 a [n]) }] }) ∧
  ∀ p d a P s, encode p (.writeReq d a P) = encode p (.encode d 0x03#8 a P) ∧
    exec (.writeReq d a P) s = exec (.encode d 0x03#8 a P) s ∧
    (P.length ≤ 253 → exec (.writeReq d a P) s = .next { s with responses := s.responses ++
      [{ status := .ok, frameBytes := some (encodeFrame d 0x03#8 a P) }] }) ∧
    (253 < P.length → exec (.writeReq d a P) s =
      .next { s with responses := s.responses ++ [{ status := .errPayloadTooLong }] })

/-- R105: payloads of equal length with equal byte sums have equal checksums; so do permutations. -/
def Obligations.ChecksumSeesOnlyTheSum : Prop :=
  (∀ d rw a P Q, P.length = Q.length → payloadSum P = payloadSum Q →
    checksum d rw a P = checksum d rw a Q) ∧
  ∀ d rw a P Q, P.Perm Q → checksum d rw a P = checksum d rw a Q

/-- R106: a single flipped bit of a field or of a payload byte changes the checksum; two changed bytes
can leave it as it was. -/
def Obligations.ChecksumSeesEverySingleBit : Prop :=
  (∀ d rw a P b, P.length ≤ 253 → b < 8 →
    checksum (d ^^^ BitVec.twoPow 8 b) rw a P ≠ checksum d rw a P ∧
    checksum d (rw ^^^ BitVec.twoPow 8 b) a P ≠ checksum d rw a P ∧
    checksum d rw (a ^^^ BitVec.twoPow 8 b) P ≠ checksum d rw a P ∧
    ∀ i, i < P.length → checksum d rw a (flipBit P i b) ≠ checksum d rw a P) ∧
  ∃ d rw a d' rw', d ≠ d' ∧ rw ≠ rw' ∧ checksum d rw a [] = checksum d' rw' a []

/-- R107: parsing an encoded frame gives it back; so it does with bytes after the frame (R67). -/
def Obligations.ParseOfEncodedFrame : Prop :=
  ∀ d rw a P Z, P.length ≤ 253 →
    parse (encodeFrame d rw a P ++ Z) = .ok
      { direction := d, readWrite := rw, attrCode := a, payload := P,
        rawBytes := encodeFrame d rw a P }

/-! ### The parser -/

/-- R24, R126: a frame the parser returns is the encoding of its own fields, with a payload of at most
253 bytes, and the input is that frame followed by ignored bytes. -/
def Obligations.ParsedFrameIsEncoded : Prop :=
  ∀ B f, parse B = .ok f → f.payload.length ≤ 253 ∧
    f.rawBytes = encodeFrame f.direction f.readWrite f.attrCode f.payload ∧
    ∃ Z, B = f.rawBytes ++ Z

/-- R121: INVALID_HEADER exactly when a byte present among the first two differs from the header. -/
def Obligations.HeaderCheckDecidesFirst : Prop :=
  ∀ B, parse B = .invalidHeader ↔ ¬ (B.take 2 <+: [0x55#8, 0xAA#8])

/-- R128: the statuses of Parse, in the order of their priority. -/
def Obligations.ParseStatusPriority : Prop :=
  ∀ B, (¬ (B.take 2 <+: [0x55#8, 0xAA#8]) → parse B = .invalidHeader) ∧
    (B.take 2 <+: [0x55#8, 0xAA#8] →
      (B.length < 6 → parse B = .disjointed) ∧
      (6 ≤ B.length →
        let L := (byteAt B 2).toNat
        (L < 2 → parse B = .invalidChecksum) ∧
        (2 ≤ L →
          (B.length < 6 + L → parse B = .disjointed) ∧
          (6 + L ≤ B.length →
            let rx := (byteAt B (4 + L)).toNat + 256 * (byteAt B (5 + L)).toNat
            let c := checksum (byteAt B 3) (byteAt B 4) (byteAt B 5) ((B.drop 6).take (L - 2))
            (rx ≠ c.toNat → parse B = .invalidChecksum) ∧
            (rx = c.toNat → ∃ f, parse B = .ok f)))))

/-- R23, R66: a DISJOINTED sequence is shorter than any frame it could start: at most 260 bytes. -/
def Obligations.DisjointedIsShort : Prop :=
  ∀ B, parse B = .disjointed → B.length ≤ 260

/-- R124, R154: every proper prefix of a frame is DISJOINTED. -/
def Obligations.FramePrefixIsDisjointed : Prop :=
  ∀ d rw a P k, P.length ≤ 253 → k < P.length + 8 →
    parse ((encodeFrame d rw a P).take k) = .disjointed

/-- R129: what each single-bit corruption of a complete frame parses as. -/
def Obligations.SingleBitCorruptionStatus : Prop :=
  ∀ d rw a P i b, P.length ≤ 253 → i < P.length + 8 → b < 8 →
    let F := encodeFrame d rw a P
    let G := flipBit F i b
    let L' := (byteAt G 2).toNat
    (i < 2 → parse G = .invalidHeader) ∧
    (3 ≤ i → parse G = .invalidChecksum) ∧
    (i = 2 → P.length + 2 < L' → parse G = .disjointed) ∧
    (i = 2 → L' < 2 → parse G = .invalidChecksum) ∧
    (i = 2 → 2 ≤ L' → L' < P.length + 2 →
      (le16 F (4 + L') ≠ checksum d rw a (P.take (L' - 2)) → parse G = .invalidChecksum) ∧
      (le16 F (4 + L') = checksum d rw a (P.take (L' - 2)) → ∃ f, parse G = .ok f))

/-- R127: PARSE answers the status of Parse, with the frame when it is OK, and changes no state; a
sequence over the length limit is REJECTED_TOO_LONG (R85). -/
def Obligations.ParseCommandResult : Prop :=
  ∀ B s,
    (B.length ≤ s.params.parseMax →
      (∀ f, parse B = .ok f → exec (.parse B) s =
        .next { s with responses := s.responses ++ [{ status := .ok, frame := some f }] }) ∧
      ((∀ f, parse B ≠ .ok f) → exec (.parse B) s =
        .next { s with responses := s.responses ++ [{ status := (parse B).status }] })) ∧
    (s.params.parseMax < B.length → exec (.parse B) s =
      .next { s with responses := s.responses ++ [{ status := .rejectedTooLong }] })

/-! ### The reassembler -/

/-- R152: an empty chunk is ignored: no state change, no ageing. A chunk over the length limit is
REJECTED_TOO_LONG (R85). -/
def Obligations.PushIgnoresEmptyAndTooLong : Prop :=
  (∀ s, exec (.push []) s = .next { s with responses := s.responses ++
    [{ status := .ignoredEmpty, evicted := some 0, expired := some 0 }] }) ∧
  ∀ C s, s.params.chunkMax < C.length → exec (.push C) s =
    .next { s with responses := s.responses ++ [{ status := .rejectedTooLong }] }

/-- R151: an entry grows one PUSH older, saturating at 255, and nothing else of it changes. -/
def Obligations.AgeingSaturates : Prop :=
  ∀ e : Entry, e.older.bytes = e.bytes ∧ e.older.age.val = min (e.age.val + 1) 255

/-- R143, R157: a chunk that is a frame is dispatched and decoded; the store only expires and ages. -/
def Obligations.PushDispatchesFrame : Prop :=
  ∀ C s f, C.length ≤ s.params.chunkMax → parse C = .ok f →
    exec (.push C) s = .next { s with
      pend := (survivors s.params s.pend).map Entry.older
      responses := s.responses ++ [dispatchReply s.params
        (pushReply .dispatchedDirect .ok 0 (expiredCount s.params s.pend)) f] }

/-- R144: a corrupt complete frame is dropped; the store only expires and ages. -/
def Obligations.PushDiscardsCorruptFrame : Prop :=
  ∀ C s, C.length ≤ s.params.chunkMax → parse C = .invalidChecksum →
    exec (.push C) s = .next { s with
      pend := (survivors s.params s.pend).map Entry.older
      responses := s.responses ++ [pushReply .discardedChecksum .invalidChecksum 0
        (expiredCount s.params s.pend)] }

/-- R145, R146: the start of a frame is stored as the newest entry with age 0; a full store first
loses its oldest entry, and no other. -/
def Obligations.PushBuffersFrameStart : Prop :=
  ∀ C s, 1 ≤ C.length → C.length ≤ s.params.chunkMax → parse C = .disjointed →
    let es := survivors s.params s.pend
    (es.length = s.params.pendDepth → exec (.push C) s = .next { s with
      pend := es.tail.map Entry.older ++ [{ bytes := C, age := 0 }]
      responses := s.responses ++ [pushReply .buffered .disjointed 1
        (expiredCount s.params s.pend)] }) ∧
    (es.length ≠ s.params.pendDepth → exec (.push C) s = .next { s with
      pend := es.map Entry.older ++ [{ bytes := C, age := 0 }]
      responses := s.responses ++ [pushReply .buffered .disjointed 0
        (expiredCount s.params s.pend)] })

/-- R147, R148: the first entry, oldest first, that the chunk completes is removed, and its frame is
dispatched and decoded. -/
def Obligations.PushCombinesOldestCompleted : Prop :=
  ∀ C s i f, C.length ≤ s.params.chunkMax → parse C = .invalidHeader →
    let es := survivors s.params s.pend
    ∀ h : i < es.length, parse (es[i].bytes ++ C) = .ok f →
    (∀ j (hj : j < i), ∀ g, parse ((es[j]'(Nat.lt_trans hj h)).bytes ++ C) ≠ .ok g) →
    exec (.push C) s = .next { s with
      pend := (es.eraseIdx i).map Entry.older
      responses := s.responses ++ [dispatchReply s.params
        { pushReply .dispatchedCombined .invalidHeader 0 (expiredCount s.params s.pend) with
          index := some i } f] }

/-- R149: when `P_ACCUMULATE = 1` and no entry is completed, the first entry the chunk extends grows
by it and gets age 0. -/
def Obligations.PushAccumulatesOldestExtended : Prop :=
  ∀ C s i, C.length ≤ s.params.chunkMax → parse C = .invalidHeader → s.params.accumulate = true →
    let es := survivors s.params s.pend
    (∀ e ∈ es, ∀ g, parse (e.bytes ++ C) ≠ .ok g) →
    ∀ h : i < es.length, parse (es[i].bytes ++ C) = .disjointed →
    (∀ j (hj : j < i), parse ((es[j]'(Nat.lt_trans hj h)).bytes ++ C) ≠ .disjointed) →
    exec (.push C) s = .next { s with
      pend := (es.map Entry.older).set i { bytes := es[i].bytes ++ C, age := 0 }
      responses := s.responses ++ [
        { pushReply .accumulated .invalidHeader 0 (expiredCount s.params s.pend) with
          index := some i }] }

/-- R148, R149: a chunk that starts no frame, completes no entry and (where `P_ACCUMULATE = 1`)
extends none is dropped; the store only expires and ages. -/
def Obligations.PushDiscardsUnmatched : Prop :=
  ∀ C s, C.length ≤ s.params.chunkMax → parse C = .invalidHeader →
    let es := survivors s.params s.pend
    (∀ e ∈ es, ∀ g, parse (e.bytes ++ C) ≠ .ok g) →
    (s.params.accumulate = true → ∀ e ∈ es, parse (e.bytes ++ C) ≠ .disjointed) →
    exec (.push C) s = .next { s with
      pend := es.map Entry.older
      responses := s.responses ++ [pushReply .discardedNoMatch .invalidHeader 0
        (expiredCount s.params s.pend)] }

/-- R83: every PUSH answers one response, whose fields are present exactly as the table says. -/
def Obligations.PushResponseFields : Prop :=
  ∀ C s, ∃ t r, exec (.push C) s = .next t ∧ t.responses = s.responses ++ [r] ∧
    t.params = s.params ∧ t.port = s.port ∧
    (r.parseStatus.isSome ↔ r.status ≠ .ignoredEmpty ∧ r.status.isRejection = false) ∧
    (r.index.isSome ↔ r.status = .dispatchedCombined ∨ r.status = .accumulated) ∧
    (r.evicted.isSome ↔ r.status.isRejection = false) ∧
    (r.expired.isSome ↔ r.status.isRejection = false) ∧
    (r.frame.isSome ↔ r.status = .dispatchedDirect ∨ r.status = .dispatchedCombined) ∧
    (r.decode.isSome ↔ r.status = .dispatchedDirect ∨ r.status = .dispatchedCombined) ∧
    r.checksum = none ∧ r.frameBytes = none ∧ r.kind = none ∧ r.fields = none

/-- R83, R141, R145: the counts of a PUSH response of a sound machine fit a `u8`: the index names an
entry that was stored, at most one entry is evicted, and no more expire than were stored. -/
def Obligations.PushCountsFitBytes : Prop :=
  ∀ C s, s.Sound → ∃ t r, exec (.push C) s = .next t ∧ t.responses = s.responses ++ [r] ∧
    s.pend.length ≤ 255 ∧ (∀ n, r.index = some n → n < s.pend.length) ∧
    (∀ n, r.evicted = some n → n ≤ 1) ∧ ∀ n, r.expired = some n → n ≤ s.pend.length

/-- R154: a complete frame split in two is reassembled: the head is BUFFERED and the tail dispatches
the same frame with the same decode result as the frame pushed whole, when the tail alone is
INVALID_HEADER and no older entry takes it. -/
def Obligations.TwoFragmentsReassemble : Prop :=
  ∀ s F k f, s.params.Legal → parse F = .ok f → f.rawBytes = F → 0 < k → k < F.length →
    k ≤ s.params.chunkMax → F.length - k ≤ s.params.chunkMax →
    parse (F.drop k) = .invalidHeader →
    (∀ e ∈ s.pend, ∀ g, parse (e.bytes ++ F.drop k) ≠ .ok g) →
    ∃ t u r r', exec (.push (F.take k)) s = .next t ∧ t.responses = s.responses ++ [r] ∧
      r.status = .buffered ∧
      exec (.push (F.drop k)) t = .next u ∧ u.responses = t.responses ++ [r'] ∧
      r'.status = .dispatchedCombined ∧ r'.frame = some f ∧
      r'.decode = some (decodePayload s.params f.direction f.attrCode f.payload) ∧
      (F.length ≤ s.params.chunkMax → ∃ w q, exec (.push F) s = .next w ∧
        w.responses = s.responses ++ [q] ∧ q.status = .dispatchedDirect ∧
        q.frame = r'.frame ∧ q.decode = r'.decode)

/-- R154's proviso: the tail of a split frame passes the header check alone exactly when it starts
with `55` followed by `AA` or by nothing. -/
def Obligations.SplitTailHeaderProviso : Prop :=
  ∀ F f k, parse F = .ok f → f.rawBytes = F → 0 < k → k < F.length →
    (parse (F.drop k) ≠ .invalidHeader ↔
      byteAt F k = 0x55#8 ∧ (k = F.length - 1 ∨ byteAt F (k + 1) = 0xAA#8))

/-- R155, R149: a frame in three chunks, from an empty store. With `P_ACCUMULATE = 1` it is
reassembled. With `P_ACCUMULATE = 0` the middle chunk is dropped, and so is the last one unless it
happens to complete the head, which stays as a stale entry unless it has expired. -/
def Obligations.ThreeFragments : Prop :=
  ∀ s A B C f, s.params.Legal → s.pend = [] → A.length ≤ s.params.chunkMax →
    B.length ≤ s.params.chunkMax → C.length ≤ s.params.chunkMax →
    A ≠ [] → B ≠ [] → C ≠ [] → parse (A ++ B ++ C) = .ok f → f.rawBytes = A ++ B ++ C →
    parse B = .invalidHeader → parse C = .invalidHeader →
    ∃ t u v r q w, exec (.push A) s = .next t ∧ exec (.push B) t = .next u ∧
      exec (.push C) u = .next v ∧ v.responses = s.responses ++ [r, q, w] ∧ r.status = .buffered ∧
      (s.params.accumulate = true → q.status = .accumulated ∧ w.status = .dispatchedCombined ∧
        w.frame = some f ∧ v.pend = []) ∧
      (s.params.accumulate = false → q.status = .discardedNoMatch ∧
        ((∀ g, parse (A ++ C) ≠ .ok g) → w.status = .discardedNoMatch ∧
          (s.params.pendMaxAge ≠ 1 → v.pend = [{ bytes := A, age := 2 }])))

/-! ### The attribute decoder -/

/-- R73: the lookup finds the unique kind of a key; a request direction or an unnamed direction has
none. -/
def Obligations.LookupFindsTheUniqueKind : Prop :=
  ∀ p, p.Legal →
    (∀ d a k, lookup p d a = some k ↔ p.attrDir.get k = d ∧ p.attrCode.get k = a) ∧
    (∀ d a, lookup p d a = none ↔ ∀ k, ¬ (p.attrDir.get k = d ∧ p.attrCode.get k = a)) ∧
    ∀ d a, d ≠ 0x23#8 → d ≠ 0x25#8 → lookup p d a = none

/-- R170, R172: DECODE: UNHANDLED comes before LENGTH_MISMATCH, and a payload of the kind's size is
DECODED as that kind. -/
def Obligations.DecodeCommandOutcomes : Prop :=
  ∀ d a P s,
    (lookup s.params d a = none → exec (.decode d a P) s =
      .next { s with responses := s.responses ++ [{ status := .unhandled }] }) ∧
    ∀ k, lookup s.params d a = some k →
      (P.length ≠ payloadSize k → exec (.decode d a P) s =
        .next { s with responses := s.responses ++ [{ status := .lengthMismatch }] }) ∧
      (P.length = payloadSize k → ∃ fs, exec (.decode d a P) s =
        .next { s with responses := s.responses ++ [decodedResponse k fs] } ∧
        exec (k.decodeInstr P) s = exec (.decode d a P) s)

/-- R70, R74, R191: the kind ids and sizes of the table, and the fields of each layout, in order, cover
the payload from offset 0 to its size with no gap and no overlap. -/
def Obligations.LayoutsCoverPayloads : Prop :=
  (AttrKind.all.map AttrKind.id = List.range 15) ∧
  (AttrKind.all.map payloadSize = [2, 2, 2, 2, 2, 2, 2, 2, 2, 10, 27, 22, 32, 10, 6]) ∧
  ∀ k, (layout k).map FieldDesc.off =
      (List.range (layout k).length).map (fun j => (((layout k).take j).map FieldDesc.width).sum) ∧
    ((layout k).map FieldDesc.width).sum = payloadSize k

/-- R75: payloads that differ only in reserved bytes decode alike. -/
def Obligations.ReservedBytesDoNotMatter : Prop :=
  ∀ k P Q s, P.length = Q.length → (∀ i, reservedOffset k i = false → byteAt P i = byteAt Q i) →
    exec (k.decodeInstr P) s = exec (k.decodeInstr Q) s

/-- R175, R181: the unsigned fields in hundredths. -/
def Obligations.UnsignedHundredthsDecode : Prop :=
  KindRow .decodeDistanceLeft .distanceLeft 2 0x23#8 0x25#8 ∧
  KindRow .decodeBatteryVoltage .batteryVoltage 2 0x25#8 0x34#8 ∧
  ∀ b0 b1 s,
    exec (.decodeDistanceLeft [b0, b1]) s = .next { s with responses := s.responses ++
      [decodedResponse .distanceLeft [numField .distanceLeft 0 .distanceLeftKm (u16Value b0 b1)
        (.div 100 .km) (.ratio (u16Value b0 b1) 100 .km)]] } ∧
    exec (.decodeBatteryVoltage [b0, b1]) s = .next { s with responses := s.responses ++
      [decodedResponse .batteryVoltage [numField .batteryVoltage 0 .batteryVoltage (u16Value b0 b1)
        (.div 100 .volt) (.ratio (u16Value b0 b1) 100 .volt)]] }

/-- R176, R182: the signed fields in hundredths. -/
def Obligations.SignedHundredthsDecode : Prop :=
  KindRow .decodeSpeed .speed 2 0x23#8 0xB5#8 ∧
  KindRow .decodeBatteryCurrent .batteryCurrent 2 0x25#8 0x33#8 ∧
  ∀ b0 b1 s,
    exec (.decodeSpeed [b0, b1]) s = .next { s with responses := s.responses ++
      [decodedResponse .speed [numField .speed 0 .speedKmh (i16Value b0 b1)
        (.div 100 .kmPerHour) (.ratio (i16Value b0 b1) 100 .kmPerHour)]] } ∧
    exec (.decodeBatteryCurrent [b0, b1]) s = .next { s with responses := s.responses ++
      [decodedResponse .batteryCurrent [numField .batteryCurrent 0 .batteryCurrent (i16Value b0 b1)
        (.div 100 .ampere) (.ratio (i16Value b0 b1) 100 .ampere)]] }

/-- R177, R183: the fields passed through as they are. -/
def Obligations.PlainCountsDecode : Prop :=
  KindRow .decodeTripDistance .tripDistance 2 0x23#8 0xB9#8 ∧
  KindRow .decodeBatteryPercent .batteryPercent 2 0x25#8 0x32#8 ∧
  ∀ b0 b1 s,
    exec (.decodeTripDistance [b0, b1]) s = .next { s with responses := s.responses ++
      [decodedResponse .tripDistance [numField .tripDistance 0 .tripDistanceM (u16Value b0 b1)
        (.ident .metre) (.int (u16Value b0 b1) .metre)]] } ∧
    exec (.decodeBatteryPercent [b0, b1]) s = .next { s with responses := s.responses ++
      [decodedResponse .batteryPercent [numField .batteryPercent 0 .batteryPercent (u16Value b0 b1)
        (.ident .percent) (.int (u16Value b0 b1) .percent)]] }

/-- R178, R179, R180: the boolean fields compare the whole `u16`. -/
def Obligations.BooleanFieldsDecode : Prop :=
  KindRow .decodeTailLight .tailLight 2 0x23#8 0x7D#8 ∧
  KindRow .decodeCruise .cruise 2 0x23#8 0x7C#8 ∧
  KindRow .decodeGetLock .getLock 2 0x23#8 0xB2#8 ∧
  ∀ b0 b1 s,
    exec (.decodeTailLight [b0, b1]) s = .next { s with responses := s.responses ++
      [decodedResponse .tailLight [numField .tailLight 0 .isTailLightOn (u16Value b0 b1)
        (.eq 2) (.bool (decide (b0 = 0x02#8 ∧ b1 = 0x00#8)))]] } ∧
    exec (.decodeCruise [b0, b1]) s = .next { s with responses := s.responses ++
      [decodedResponse .cruise [numField .cruise 0 .isCruiseOn (u16Value b0 b1)
        (.eq 1) (.bool (decide (b0 = 0x01#8 ∧ b1 = 0x00#8)))]] } ∧
    exec (.decodeGetLock [b0, b1]) s = .next { s with responses := s.responses ++
      [decodedResponse .getLock [numField .getLock 0 .isLockOn (u16Value b0 b1)
        (.eq 2) (.bool (decide (b0 = 0x02#8 ∧ b1 = 0x00#8)))]] }

/-- R184: BATTERY_INFO. -/
def Obligations.BatteryInfoDecodes : Prop :=
  KindRow .decodeBatteryInfo .batteryInfo 10 0x25#8 0x31#8 ∧
  ∀ b0 b1 b2 b3 b4 b5 b6 b7 b8 b9 s,
    exec (.decodeBatteryInfo [b0, b1, b2, b3, b4, b5, b6, b7, b8, b9]) s =
      .next { s with responses := s.responses ++ [decodedResponse .batteryInfo
        [numField .batteryInfo 0 .capacity (u16Value b0 b1) (.div 1000 .ampereHour)
          (.ratio (u16Value b0 b1) 1000 .ampereHour),
         numField .batteryInfo 1 .percent (u16Value b2 b3) (.ident .percent)
          (.int (u16Value b2 b3) .percent),
         numField .batteryInfo 2 .current (i16Value b4 b5) (.div 100 .ampere)
          (.ratio (i16Value b4 b5) 100 .ampere),
         numField .batteryInfo 3 .voltage (u16Value b6 b7) (.div 100 .volt)
          (.ratio (u16Value b6 b7) 100 .volt),
         numField .batteryInfo 4 .temp1 b8.toNat (.add (-20) .celsius)
          (.int (b8.toNat - 20) .celsius),
         numField .batteryInfo 5 .temp2 b9.toNat (.add (-20) .celsius)
          (.int (b9.toNat - 20) .celsius)]] }

/-- R185: BATTERY_CELL_VOLTAGES: ten lanes, each decoded alone; the seven reserved bytes are not
read. -/
def Obligations.CellVoltagesDecode : Prop :=
  KindRow .decodeBatteryCellVoltages .batteryCellVoltages 27 0x25#8 0x40#8 ∧
  ∀ P s, P.length = 27 →
    exec (.decodeBatteryCellVoltages P) s = .next { s with responses := s.responses ++
      [decodedResponse .batteryCellVoltages ((List.range 10).map fun j =>
        numField .batteryCellVoltages j (.cellVoltage j)
          (u16Value (byteAt P (2 * j)) (byteAt P (2 * j + 1))) (.div 100 .volt)
          (.ratio (u16Value (byteAt P (2 * j)) (byteAt P (2 * j + 1))) 100 .volt))] }

/-- R186: GENERAL_INFO: serial and pin unchanged, and the version's three low hex digits, whose text
form is `V`, digit, dot, digit, dot, digit in lowercase. -/
def Obligations.GeneralInfoDecodes : Prop :=
  KindRow .decodeGeneralInfo .generalInfo 22 0x23#8 0x10#8 ∧
  (∀ serial pin v0 v1 s, serial.length = 14 → pin.length = 6 →
    exec (.decodeGeneralInfo (serial ++ pin ++ [v0, v1])) s =
      .next { s with responses := s.responses ++ [decodedResponse .generalInfo
        [textField .generalInfo 0 .serial serial,
         textField .generalInfo 1 .pin pin,
         numField .generalInfo 2 .version (u16Value v0 v1) .nibbles3
          (.nibbles (BitVec.ofNat 4 (v1.toNat % 16)) (BitVec.ofNat 4 (v0.toNat / 16))
            (BitVec.ofNat 4 (v0.toNat % 16)))]] }) ∧
  ∀ v2 v1 v0 : BitVec 4, versionText v2 v1 v0 =
    ['V', Nat.digitChar v2.toNat, '.', Nat.digitChar v1.toNat, '.', Nat.digitChar v0.toNat].map
      fun c => BitVec.ofNat 8 c.toNat

/-- R187: MOTOR_INFO, with its reserved head and tail. -/
def Obligations.MotorInfoDecodes : Prop :=
  KindRow .decodeMotorInfo .motorInfo 32 0x23#8 0xB0#8 ∧
  ∀ head tail b0 b1 b2 b3 b4 b5 b6 b7 b8 b9 b10 b11 b12 b13 b14 b15 s,
    head.length = 8 → tail.length = 8 →
    exec (.decodeMotorInfo (head ++
      [b0, b1, b2, b3, b4, b5, b6, b7, b8, b9, b10, b11, b12, b13, b14, b15] ++ tail)) s =
      .next { s with responses := s.responses ++ [decodedResponse .motorInfo
        [numField .motorInfo 0 .batteryPercent (u16Value b0 b1) (.ident .percent)
          (.int (u16Value b0 b1) .percent),
         numField .motorInfo 1 .speed (i16Value b2 b3) (.div 100 .kmPerHour)
          (.ratio (i16Value b2 b3) 100 .kmPerHour),
         numField .motorInfo 2 .speedAvg (u16Value b4 b5) (.div 100 .kmPerHour)
          (.ratio (u16Value b4 b5) 100 .kmPerHour),
         numField .motorInfo 3 .odometer (u32Value b6 b7 b8 b9) (.div 1000 .km)
          (.ratio (u32Value b6 b7 b8 b9) 1000 .km),
         numField .motorInfo 4 .tripDistanceM (i16Value b10 b11) (.ident .metre)
          (.int (i16Value b10 b11) .metre),
         numField .motorInfo 5 .uptimeS (i16Value b12 b13) (.ident .second)
          (.int (i16Value b12 b13) .second),
         numField .motorInfo 6 .frameTemp (i16Value b14 b15) (.div 10 .celsius)
          (.ratio (i16Value b14 b15) 10 .celsius)]] }

/-- R188, R189: TRIP_INFO and SUPPLEMENTARY. -/
def Obligations.TripInfoAndSupplementaryDecode : Prop :=
  KindRow .decodeTripInfo .tripInfo 10 0x23#8 0x3A#8 ∧
  KindRow .decodeSupplementary .supplementary 6 0x23#8 0x7B#8 ∧
  (∀ b0 b1 b2 b3 b4 b5 x y b8 b9 s,
    exec (.decodeTripInfo [b0, b1, b2, b3, b4, b5, x, y, b8, b9]) s =
      .next { s with responses := s.responses ++ [decodedResponse .tripInfo
        [numField .tripInfo 0 .uptimeS (u16Value b0 b1) (.ident .second)
          (.int (u16Value b0 b1) .second),
         numField .tripInfo 1 .tripDistanceM (u32Value b2 b3 b4 b5) (.ident .metre)
          (.int (u32Value b2 b3 b4 b5) .metre),
         numField .tripInfo 2 .frameTemp (i16Value b8 b9) (.div 10 .celsius)
          (.ratio (i16Value b8 b9) 10 .celsius)]] }) ∧
  ∀ b0 b1 b2 b3 b4 b5 s,
    exec (.decodeSupplementary [b0, b1, b2, b3, b4, b5]) s =
      .next { s with responses := s.responses ++ [decodedResponse .supplementary
        [numField .supplementary 0 .kersMode (u16Value b0 b1) (.ident .none)
          (.int (u16Value b0 b1) .none),
         numField .supplementary 1 .cruise (u16Value b2 b3) (.eq 1)
          (.bool (decide (b2 = 0x01#8 ∧ b3 = 0x00#8))),
         numField .supplementary 2 .tailLight (u16Value b4 b5) (.eq 2)
          (.bool (decide (b4 = 0x02#8 ∧ b5 = 0x00#8)))]] }
end

