-- ==== Sys2Proof/Laws/Operands.lean ====
section
/-! SUPPORT. The small lemmas of the operand primitives: little-endian fields as integers, the bytes of
a count, reading through appended lists, and what a lookup answers. -/

namespace Sys2Proof.Machine

@[simp] theorem le16Bytes_toNat (lo hi : Byte) :
    (le16Bytes lo hi).toNat = lo.toNat + 256 * hi.toNat := by
  have h := lo.isLt
  have h2 := hi.isLt
  unfold le16Bytes
  rw [BitVec.toNat_or, BitVec.toNat_shiftLeft, BitVec.toNat_setWidth, BitVec.toNat_setWidth,
    Nat.mod_eq_of_lt (by omega), Nat.mod_eq_of_lt (by omega : hi.toNat < 2 ^ 16),
    Nat.shiftLeft_eq, Nat.mod_eq_of_lt (by omega), Nat.or_comm, ← Nat.shiftLeft_eq,
    ← Nat.shiftLeft_add_eq_or_of_lt h, Nat.shiftLeft_eq]
  omega

theorem le16_toNat (B : List Byte) (o : Nat) :
    (le16 B o).toNat = (byteAt B o).toNat + 256 * (byteAt B (o + 1)).toNat := le16Bytes_toNat _ _

theorem le16_toInt (B : List Byte) (o : Nat) :
    (le16 B o).toInt = if 32768 ≤ (byteAt B o).toNat + 256 * (byteAt B (o + 1)).toNat
      then ((byteAt B o).toNat : Int) + 256 * (byteAt B (o + 1)).toNat - 65536
      else ((byteAt B o).toNat : Int) + 256 * (byteAt B (o + 1)).toNat := by
  rw [BitVec.toInt_eq_toNat_cond, le16_toNat]
  split <;> split <;> push_cast <;> omega

theorem le32_toNat (B : List Byte) (o : Nat) :
    (le32 B o).toNat = (le16 B o).toNat + 65536 * (le16 B (o + 2)).toNat := by
  have h := (le16 B o).isLt
  have h2 := (le16 B (o + 2)).isLt
  unfold le32
  rw [BitVec.toNat_or, BitVec.toNat_shiftLeft, BitVec.toNat_setWidth, BitVec.toNat_setWidth,
    Nat.mod_eq_of_lt (by omega), Nat.mod_eq_of_lt (by omega : (le16 B (o + 2)).toNat < 2 ^ 32),
    Nat.shiftLeft_eq, Nat.mod_eq_of_lt (by omega), Nat.or_comm, ← Nat.shiftLeft_eq,
    ← Nat.shiftLeft_add_eq_or_of_lt h, Nat.shiftLeft_eq]
  omega

theorem lowByte_toNat (v : Half) : (lowByte v).toNat = v.toNat % 256 := by
  simp [lowByte, BitVec.extractLsb'_toNat]

theorem highByte_toNat (v : Half) : (highByte v).toNat = v.toNat / 256 := by
  have := v.isLt
  simp only [highByte, BitVec.extractLsb'_toNat, Nat.shiftRight_eq_div_pow]
  omega

/-- The two bytes of a `u16`, low one first, read back as it (R40). -/
@[simp] theorem le16Bytes_low_high (v : Half) : le16Bytes (lowByte v) (highByte v) = v := by
  apply BitVec.eq_of_toNat_eq
  rw [le16Bytes_toNat, lowByte_toNat, highByte_toNat]
  omega

@[simp] theorem byteAt_cons_zero (b : Byte) (B : List Byte) : byteAt (b :: B) 0 = b := rfl

@[simp] theorem byteAt_cons_succ (b : Byte) (B : List Byte) (i : Nat) :
    byteAt (b :: B) (i + 1) = byteAt B i := by simp [byteAt]

theorem byteAt_append_left {A B : List Byte} {i : Nat} (h : i < A.length) :
    byteAt (A ++ B) i = byteAt A i := by
  simp [byteAt, List.getD, List.getElem?_append_left h]

theorem byteAt_append_right {A B : List Byte} {i : Nat} (h : A.length ≤ i) :
    byteAt (A ++ B) i = byteAt B (i - A.length) := by
  simp [byteAt, List.getD, List.getElem?_append_right h]

theorem byteAt_eq_getElem {B : List Byte} {i : Nat} (h : i < B.length) : byteAt B i = B[i] := by
  simp [byteAt, h]

theorem AttrKind.mem_all (k : AttrKind) : k ∈ AttrKind.all := by cases k <;> decide

/-- What a lookup answers: a kind with this key (R73). -/
theorem key_of_lookup {p : Params} {d a : Byte} {k : AttrKind} (h : lookup p d a = some k) :
    p.key k = (d, a) := by
  simpa using List.find?_some h

/-- No kind has the key of a failed lookup (R73). -/
theorem lookup_eq_none {p : Params} {d a : Byte} :
    lookup p d a = none ↔ ∀ k, p.key k ≠ (d, a) := by
  simp [lookup, AttrKind.mem_all]

/-- Under legal maps the key tells the kind (R72). -/
theorem key_inj {p : Params} (h : p.Legal) {k j : AttrKind} (e : p.key k = p.key j) :
    k = j :=
  List.inj_on_of_nodup_map h.2.2.2.2.2 (AttrKind.mem_all k) (AttrKind.mem_all j) e

end Sys2Proof.Machine
end

