-- ==== Sys2Proof/Laws/Codec.lean ====
section
/-! SUPPORT. The small lemmas of the checksum and of frame construction. -/

namespace Sys2Proof.Machine

@[simp] theorem byteSum_nil : byteSum [] = 0 := rfl

@[simp] theorem byteSum_cons (b : Byte) (P : List Byte) :
    byteSum (b :: P) = b.toNat + byteSum P := rfl

/-- The recursive sum is the sum of the list of byte values. -/
theorem byteSum_eq_payloadSum (P : List Byte) : byteSum P = payloadSum P := by
  induction P with
  | nil => rfl
  | cons b P ih => simp [payloadSum] at *; omega

theorem checksumSum_eq_fieldSum (d rw a : Byte) (P : List Byte) :
    checksumSum d rw a P = fieldSum d rw a P := by
  simp [checksumSum, fieldSum, byteSum_eq_payloadSum]

/-- A payload's sum is at most 255 for each byte. -/
theorem payloadSum_le (P : List Byte) : payloadSum P ≤ 255 * P.length := by
  induction P with
  | nil => rfl
  | cons b P ih => have := b.isLt; simp [payloadSum] at *; omega

/-- `(~n) & 0xFFFF` of a number that fits 16 bits is `0xFFFF - n`. -/
theorem complement16_toNat {n : Nat} (h : n ≤ 65535) :
    (BitVec.ofInt 16 (~~~ (n : Int))).toNat = 65535 - n := by
  have e : (~~~ (n : Int)) = -(n : Int) - 1 := by
    change Int.not n = _
    simp [Int.not, Int.negSucc_eq]
    omega
  rw [e, BitVec.toNat_ofInt]
  omega

@[simp] theorem encodeFrame_length (d rw a : Byte) (P : List Byte) :
    (encodeFrame d rw a P).length = P.length + 8 := by simp [encodeFrame]

/-- A frame as a chain of bytes, for reading its header. -/
theorem encodeFrame_eq (d rw a : Byte) (P : List Byte) :
    encodeFrame d rw a P = headerLow :: headerHigh :: countByte (P.length + 2) :: d :: rw :: a ::
      (P ++ [lowByte (checksum d rw a P), highByte (checksum d rw a P)]) := rfl

/-- The length byte of a frame whose payload fits (R60). -/
theorem countByte_toNat {n : Nat} (h : n ≤ 255) : (countByte n).toNat = n := by
  simp [countByte]
  omega

/-- The last two bytes of a frame are its checksum (R41). -/
theorem le16_encodeFrame (d rw a : Byte) (P Z : List Byte) :
    le16 (encodeFrame d rw a P ++ Z) (headerLength + P.length) = checksum d rw a P := by
  have e : encodeFrame d rw a P ++ Z =
      ([headerLow, headerHigh, countByte (P.length + 2), d, rw, a] ++ P) ++
        (lowByte (checksum d rw a P) :: highByte (checksum d rw a P) :: Z) := by
    simp [encodeFrame]
  have l : ([headerLow, headerHigh, countByte (P.length + 2), d, rw, a] ++ P).length =
      headerLength + P.length := by simp [headerLength]; omega
  unfold le16
  rw [e, byteAt_append_right (by omega), byteAt_append_right (by omega), ← l]
  simp

end Sys2Proof.Machine
end

