-- ==== Sys2Proof/Laws/Decode.lean ====
section
/-! SUPPORT. What each part of the decoder answers, once: the formats, the opcode dispatch and the
reserved rows (R81, R82, R85, R87). -/

namespace Sys2Proof

/-- A FIELDS operand decodes exactly when its count is the payload's length (R82). -/
theorem decodeFields_ok_iff {mk : Byte → Byte → Byte → List Byte → Instr} {rest : List Byte}
    {i : Instr} : decodeFields mk rest = .ok i ↔ ∃ d rw a n P, rest = d :: rw :: a :: n :: P ∧
      P.length = n.toNat ∧ i = mk d rw a P := by
  match rest with
  | [] => simp [decodeFields]
  | [_] => simp [decodeFields]
  | [_, _] => simp [decodeFields]
  | [_, _, _] => simp [decodeFields]
  | d :: rw :: a :: n :: P =>
    by_cases h : P.length = n.toNat
    · simp [decodeFields, h, eq_comm]
    · simp [decodeFields, h]

/-- A STREAM operand decodes exactly when its count is the sequence's length (R82). -/
theorem decodeStream_ok_iff {mk : List Byte → Instr} {rest : List Byte} {i : Instr} :
    decodeStream mk rest = .ok i ↔ ∃ lo hi B, rest = lo :: hi :: B ∧
      B.length = (Machine.le16Bytes lo hi).toNat ∧ i = mk B := by
  match rest with
  | [] => simp [decodeStream]
  | [_] => simp [decodeStream]
  | lo :: hi :: B =>
    by_cases h : B.length = (Machine.le16Bytes lo hi).toNat
    · simp only [decodeStream, if_pos h, Except.ok.injEq, List.cons.injEq]
      constructor
      · rintro rfl
        exact ⟨lo, hi, B, ⟨rfl, rfl, rfl⟩, h, rfl⟩
      · rintro ⟨lo, hi, B, ⟨rfl, rfl, rfl⟩, -, rfl⟩
        rfl
    · simp only [decodeStream, if_neg h, reduceCtorEq, List.cons.injEq, false_iff]
      rintro ⟨lo, hi, B, ⟨rfl, rfl, rfl⟩, h', -⟩
      exact h h'

/-- A DFIELDS operand decodes exactly when its count is the payload's length (R82). -/
theorem decodeDfields_ok_iff {mk : Byte → Byte → List Byte → Instr} {rest : List Byte}
    {i : Instr} : decodeDfields mk rest = .ok i ↔ ∃ d a n P, rest = d :: a :: n :: P ∧
      P.length = n.toNat ∧ i = mk d a P := by
  match rest with
  | [] => simp [decodeDfields]
  | [_] => simp [decodeDfields]
  | [_, _] => simp [decodeDfields]
  | d :: a :: n :: P =>
    by_cases h : P.length = n.toNat
    · simp [decodeDfields, h, eq_comm]
    · simp [decodeDfields, h]

variable (p : Params) (rest : List Byte)

@[simp] theorem decode_nil : decode p [] = .error .empty := rfl
@[simp] theorem decode_checksum : decode p (0x01#8 :: rest) = decodeFields .checksum rest := rfl
@[simp] theorem decode_encode : decode p (0x02#8 :: rest) = decodeFields spellEncode rest := rfl
@[simp] theorem decode_parse : decode p (0x03#8 :: rest) = decodeStream .parse rest := rfl
@[simp] theorem decode_push : decode p (0x04#8 :: rest) = decodeStream .push rest := rfl
@[simp] theorem decode_decode :
    decode p (0x05#8 :: rest) = decodeDfields (spellDecode p) rest := rfl

/-- A reserved opcode decodes whatever follows it (R85: the opcode check precedes the length check). -/
theorem decode_reserved {op : Byte} (h1 : op ≠ 0x01#8) (h2 : op ≠ 0x02#8) (h3 : op ≠ 0x03#8)
    (h4 : op ≠ 0x04#8) (h5 : op ≠ 0x05#8) :
    decode p (op :: rest) = .ok (decodeReserved op rest) := by
  simp [decode, h1, h2, h3, h4, h5]

/-- The opcode dispatch: every command byte is one of the five opcodes or a reserved one (R81). -/
theorem opcode_cases (op : Byte) : op = 0x01#8 ∨ op = 0x02#8 ∨ op = 0x03#8 ∨ op = 0x04#8 ∨
    op = 0x05#8 ∨ (op ≠ 0x01#8 ∧ op ≠ 0x02#8 ∧ op ≠ 0x03#8 ∧ op ≠ 0x04#8 ∧ op ≠ 0x05#8) := by
  by_cases h1 : op = 0x01#8 <;> by_cases h2 : op = 0x02#8 <;> by_cases h3 : op = 0x03#8 <;>
    by_cases h4 : op = 0x04#8 <;> by_cases h5 : op = 0x05#8 <;> simp_all

/-- The rows of the opcode table cover every opcode byte (R81, R87). -/
theorem reserved_opcode_rows : ∀ v : Byte,
    (v == 0x00#8 || v == 0x01#8 || v == 0x02#8 || v == 0x03#8 || v == 0x04#8 || v == 0x05#8 ||
      v.extractLsb' 7 1 == 1#1 || v.extractLsb' 6 2 == 1#2 || v.extractLsb' 5 3 == 1#3 ||
      v.extractLsb' 4 4 == 1#4 || v.extractLsb' 3 5 == 1#5 || v.extractLsb' 1 7 == 3#7) = true := by
  decide

/-- No bit of a reserved opcode is lost by its row (R87). -/
theorem encode_decodeReserved {op : Byte} (h1 : op ≠ 0x01#8) (h2 : op ≠ 0x02#8) (h3 : op ≠ 0x03#8)
    (h4 : op ≠ 0x04#8) (h5 : op ≠ 0x05#8) : encode p (decodeReserved op rest) = op :: rest := by
  unfold decodeReserved
  split
  · rename_i h
    exact congrArg (· :: rest)
      ((by decide : ∀ v : Byte, v.extractLsb' 7 1 = 1#1 → 1#1 ++ v.extractLsb' 0 7 = v) op h)
  split
  · rename_i h
    exact congrArg (· :: rest)
      ((by decide : ∀ v : Byte, v.extractLsb' 6 2 = 1#2 → 1#2 ++ v.extractLsb' 0 6 = v) op h)
  split
  · rename_i h
    exact congrArg (· :: rest)
      ((by decide : ∀ v : Byte, v.extractLsb' 5 3 = 1#3 → 1#3 ++ v.extractLsb' 0 5 = v) op h)
  split
  · rename_i h
    exact congrArg (· :: rest)
      ((by decide : ∀ v : Byte, v.extractLsb' 4 4 = 1#4 → 1#4 ++ v.extractLsb' 0 4 = v) op h)
  split
  · rename_i h
    exact congrArg (· :: rest)
      ((by decide : ∀ v : Byte, v.extractLsb' 3 5 = 1#5 → 1#5 ++ v.extractLsb' 0 3 = v) op h)
  split
  · rename_i h
    exact congrArg (· :: rest)
      ((by decide : ∀ v : Byte, v.extractLsb' 1 7 = 3#7 → 3#7 ++ v.extractLsb' 0 1 = v) op h)
  · rename_i a b c d e f
    have h := reserved_opcode_rows op
    simp [h1, h2, h3, h4, h5, a, b, c, d, e, f] at h
    simp [encode, h]

/-- A reserved row is well formed: nothing of it can be ill formed (R87). -/
theorem decodeReserved_wellFormed (op : Byte) :
    (decodeReserved op rest).wellFormed p = true := by
  unfold decodeReserved
  repeat' split
  all_goals rfl

/-- The bytes of a kind's row (R73). -/
theorem encode_decodeInstr (k : AttrKind) (P : List Byte) :
    encode p (k.decodeInstr P) = encodeKind p k P := by cases k <;> rfl

theorem decodeInstr_wellFormed (k : AttrKind) (P : List Byte) :
    (k.decodeInstr P).wellFormed p = fitsByteCount P := by cases k <;> rfl

end Sys2Proof
end

