-- ==== Sys2Proof/Laws/Decoder.lean ====
section
/-! SUPPORT. The small lemmas of the attribute decoder: extraction as integers (R11, R174), what the
decode of a kind answers (R170, R172), and which bytes it reads (R75). -/

namespace Sys2Proof.Machine

theorem extract_u8 (P : List Byte) (o : Nat) : extract P o .u8 = (byteAt P o).toNat := rfl

theorem extract_u16 (P : List Byte) (o : Nat) :
    extract P o .u16 = u16Value (byteAt P o) (byteAt P (o + 1)) := by
  simp [extract, u16Value, le16_toNat]

theorem extract_i16 (P : List Byte) (o : Nat) :
    extract P o .i16 = i16Value (byteAt P o) (byteAt P (o + 1)) := by
  unfold i16Value extract
  rw [le16_toInt]
  rcases Nat.lt_or_ge ((byteAt P o).toNat + 256 * (byteAt P (o + 1)).toNat) 32768 with h | h
  · rw [if_neg (by omega), if_neg (by unfold u16Value; omega), u16Value]
  · rw [if_pos h, if_pos (by unfold u16Value; omega), u16Value]

theorem extract_u32 (P : List Byte) (o : Nat) : extract P o .u32 =
    u32Value (byteAt P o) (byteAt P (o + 1)) (byteAt P (o + 2)) (byteAt P (o + 3)) := by
  simp [extract, u32Value, u16Value, le32_toNat, le16_toNat]

/-- A boolean field compares the whole `u16` (R178). -/
theorem u16Value_beq (b0 b1 : Byte) {K : Nat} (hK : K < 256) :
    (u16Value b0 b1 == (K : Int)) = decide (b0 = BitVec.ofNat 8 K ∧ b1 = 0x00#8) := by
  rw [Bool.eq_iff_iff, beq_iff_eq, decide_eq_true_iff]
  have h0 := b0.isLt
  have h1 := b1.isLt
  simp only [u16Value, BitVec.toNat_eq, BitVec.toNat_ofNat]
  omega

/-- A payload of the wrong size (R172). -/
theorem decodeKind_of_ne {k : AttrKind} {P : List Byte} (h : P.length ≠ payloadSize k) :
    decodeKind k P = { dstatus := .lengthMismatch } := if_pos h

/-- A payload of the kind's size (R170). -/
theorem decodeKind_of_eq {k : AttrKind} {P : List Byte} (h : P.length = payloadSize k) :
    decodeKind k P = { dstatus := .decoded, kind := some k, fields := some (decodeFieldsFrom k P 0 (layout k)) } :=
  if_neg (not_not_intro h)

/-- The meaning of a kind's row (R175 to R189). -/
theorem exec_decodeInstr (k : AttrKind) (P : List Byte) (s : State) :
    exec (k.decodeInstr P) s = .next (s.respond (decodeResponse (decodeKind k P))) := by
  cases k <;> rfl

/-- A descriptor names a field that is decoded: it is not reserved (R75). -/
def FieldDesc.isData : FieldDesc → Bool
  | .rsvd _ _ => false
  | _ => true

/-- Sequences of one length with the same bytes in a range have the same slice. -/
theorem slice_congr {P Q : List Byte} (hl : P.length = Q.length) {i n : Nat}
    (h : ∀ o, i ≤ o → o < i + n → byteAt P o = byteAt Q o) :
    slice P i (i + n) = slice Q i (i + n) := by
  unfold slice
  apply List.ext_getElem?
  intro j
  simp only [List.getElem?_drop, List.getElem?_take]
  split
  · rename_i hj
    have hb := h (i + j) (by omega) hj
    rcases Nat.lt_or_ge (i + j) P.length with hp | hp
    · rw [byteAt_eq_getElem hp, byteAt_eq_getElem (by omega)] at hb
      rw [List.getElem?_eq_getElem hp, List.getElem?_eq_getElem (by omega), hb]
    · rw [List.getElem?_eq_none hp, List.getElem?_eq_none (by omega)]
  · rfl

/-- The decoded fields depend only on the bytes that the data fields of the layout name (R75). -/
theorem decodeFieldsFrom_congr {k : AttrKind} {P Q : List Byte} (hl : P.length = Q.length)
    {ds : List FieldDesc} (h : ∀ d ∈ ds, d.isData = true →
      ∀ o, d.off ≤ o → o < d.off + d.width → byteAt P o = byteAt Q o) (j : Nat) :
    decodeFieldsFrom k P j ds = decodeFieldsFrom k Q j ds := by
  induction ds generalizing j with
  | nil => rfl
  | cons d ds ih =>
    have ih' := ih (fun d' hd' => h d' (List.mem_cons_of_mem _ hd'))
    have hd := h d (List.mem_cons_self ..)
    cases d with
    | rsvd off n => exact ih' j
    | text off n name =>
      have hx : slice P off (off + n) = slice Q off (off + n) := slice_congr hl (hd rfl)
      simp only [decodeFieldsFrom, hx, ih']
    | num off ty name conv =>
      have hx : extract P off ty = extract Q off ty := by
        cases ty <;>
          simp only [FieldDesc.off, FieldDesc.width, NumType.width] at hd
        · simp only [extract_u8, hd rfl off (by omega) (by omega)]
        · simp only [extract_u16, hd rfl off (by omega) (by omega),
            hd rfl (off + 1) (by omega) (by omega)]
        · simp only [extract_i16, hd rfl off (by omega) (by omega),
            hd rfl (off + 1) (by omega) (by omega)]
        · simp only [extract_u32, hd rfl off (by omega) (by omega),
            hd rfl (off + 1) (by omega) (by omega), hd rfl (off + 2) (by omega) (by omega),
            hd rfl (off + 3) (by omega) (by omega)]
      simp only [decodeFieldsFrom, hx, ih']

end Sys2Proof.Machine
end

