-- ==== Sys2Proof/Laws/Parser.lean ====
section
/-! SUPPORT. What the parse function can answer, once for every status (R120, R128). -/

namespace Sys2Proof.Machine

/-- The header check in words (R121). -/
theorem headerMismatch_iff (B : List Byte) : headerMismatch B = true ↔
    (1 ≤ B.length ∧ byteAt B 0 ≠ headerLow) ∨ (2 ≤ B.length ∧ byteAt B 1 ≠ headerHigh) := by
  simp [headerMismatch]

/-- A sequence that starts with both header bytes passes the header check. -/
theorem headerMismatch_cons_cons (B : List Byte) :
    headerMismatch (headerLow :: headerHigh :: B) = false := by
  simp [headerMismatch]

/-- Bytes after the first two do not enter the header check. -/
theorem headerMismatch_append {B Z : List Byte} (h : 2 ≤ B.length) :
    headerMismatch (B ++ Z) = headerMismatch B := by
  match B, h with
  | b :: c :: B, _ => simp [headerMismatch]

/-- The parse of a sequence that holds the whole frame it declares (R125, R126). -/
theorem parse_of_complete {B : List Byte} (hm : headerMismatch B = false)
    (hL : 2 ≤ (byteAt B 2).toNat) (hn : headerLength + (byteAt B 2).toNat ≤ B.length) :
    parse B = parseComplete B ((byteAt B 2).toNat - 2) := by
  simp only [headerLength] at hn
  simp [parse, hm, headerLength, show ¬ B.length < 6 by omega,
    show ¬ (byteAt B 2).toNat < 2 by omega, show ¬ B.length < 6 + (byteAt B 2).toNat by omega]

theorem parseComplete_ne_invalidHeader (B : List Byte) (N : Nat) :
    parseComplete B N ≠ .invalidHeader := by
  unfold parseComplete
  dsimp only
  split <;> simp

theorem parseComplete_ne_disjointed (B : List Byte) (N : Nat) :
    parseComplete B N ≠ .disjointed := by
  unfold parseComplete
  dsimp only
  split <;> simp

/-- INVALID_HEADER when the header check fails (R121). -/
theorem parse_of_mismatch {B : List Byte} (hm : headerMismatch B = true) :
    parse B = .invalidHeader := by simp [parse, hm]

/-- DISJOINTED when the header matches and fewer than six bytes are there (R122). -/
theorem parse_of_short {B : List Byte} (hm : headerMismatch B = false) (hn : B.length < 6) :
    parse B = .disjointed := by simp [parse, hm, headerLength, hn]

/-- INVALID_CHECKSUM when the declared length is below 2 (R123). -/
theorem parse_of_low_length {B : List Byte} (hm : headerMismatch B = false) (hn : 6 ≤ B.length)
    (hL : (byteAt B 2).toNat < 2) : parse B = .invalidChecksum := by
  simp [parse, hm, headerLength, hL, Nat.not_lt.mpr hn]

/-- DISJOINTED when the frame is not all there, the checksum bytes included (R124). -/
theorem parse_of_incomplete {B : List Byte} (hm : headerMismatch B = false) (hn : 6 ≤ B.length)
    (hL : 2 ≤ (byteAt B 2).toNat) (hT : B.length < 6 + (byteAt B 2).toNat) :
    parse B = .disjointed := by
  simp [parse, hm, headerLength, hT, Nat.not_lt.mpr hn, Nat.not_lt.mpr hL]

/-- The five cases of the parse function, with what each one answers (R128). -/
theorem parse_cases (B : List Byte) :
    (headerMismatch B = true ∧ parse B = .invalidHeader) ∨
    (headerMismatch B = false ∧ B.length < 6 ∧ parse B = .disjointed) ∨
    (headerMismatch B = false ∧ 6 ≤ B.length ∧ (byteAt B 2).toNat < 2 ∧
      parse B = .invalidChecksum) ∨
    (headerMismatch B = false ∧ 6 ≤ B.length ∧ 2 ≤ (byteAt B 2).toNat ∧
      B.length < 6 + (byteAt B 2).toNat ∧ parse B = .disjointed) ∨
    (headerMismatch B = false ∧ 2 ≤ (byteAt B 2).toNat ∧ 6 + (byteAt B 2).toNat ≤ B.length ∧
      parse B = parseComplete B ((byteAt B 2).toNat - 2)) := by
  rcases hm : headerMismatch B
  · rcases Nat.lt_or_ge B.length 6 with hn | hn
    · simp [parse_of_short hm hn, hn]
    · rcases Nat.lt_or_ge (byteAt B 2).toNat 2 with hL | hL
      · simp [parse_of_low_length hm hn hL, hn, hL]
      · rcases Nat.lt_or_ge B.length (6 + (byteAt B 2).toNat) with hT | hT
        · simp [parse_of_incomplete hm hn hL hT, hn, hL, hT]
        · simp [parse_of_complete hm hL hT, hL, hT]
  · simp [parse_of_mismatch hm]

/-- INVALID_HEADER is the header check (R121). -/
theorem parse_invalidHeader_iff (B : List Byte) :
    parse B = .invalidHeader ↔ headerMismatch B = true := by
  rcases parse_cases B with ⟨hm, h⟩ | ⟨hm, -, h⟩ | ⟨hm, -, -, h⟩ | ⟨hm, -, -, -, h⟩ | ⟨hm, -, -, h⟩ <;>
    simp [hm, h, parseComplete_ne_invalidHeader]

/-- DISJOINTED is a matching header and an incomplete frame (R122, R124). -/
theorem parse_disjointed_iff (B : List Byte) : parse B = .disjointed ↔
    headerMismatch B = false ∧ (B.length < 6 ∨
      2 ≤ (byteAt B 2).toNat ∧ B.length < 6 + (byteAt B 2).toNat) := by
  rcases parse_cases B with ⟨hm, h⟩ | ⟨hm, hn, h⟩ | ⟨hm, hn, hL, h⟩ | ⟨hm, hn, hL, hT, h⟩ |
    ⟨hm, hL, hT, h⟩ <;> simp [hm, h, parseComplete_ne_disjointed] <;> omega

/-- What an OK parse says: the header, the length byte, and an OK verification (R125, R126). -/
theorem parse_ok_iff (B : List Byte) (f : Frame) : parse B = .ok f ↔
    headerMismatch B = false ∧ 2 ≤ (byteAt B 2).toNat ∧ 6 + (byteAt B 2).toNat ≤ B.length ∧
    parseComplete B ((byteAt B 2).toNat - 2) = .ok f := by
  constructor
  · intro h
    rcases parse_cases B with ⟨-, e⟩ | ⟨-, -, e⟩ | ⟨-, -, -, e⟩ | ⟨-, -, -, -, e⟩ | ⟨hm, hL, hT, e⟩
    iterate 4 simp [e] at h
    exact ⟨hm, hL, hT, e ▸ h⟩
  · rintro ⟨hm, hL, hn, h⟩
    rw [parse_of_complete hm hL hn, h]

/-- An OK verification: the received checksum is the computed one, and the frame's fields (R126). -/
theorem parseComplete_ok_iff (B : List Byte) (N : Nat) (f : Frame) :
    parseComplete B N = .ok f ↔
      le16 B (headerLength + N) = checksum (byteAt B 3) (byteAt B 4) (byteAt B 5)
        (slice B headerLength (headerLength + N)) ∧
      f = { direction := byteAt B 3, readWrite := byteAt B 4, attrCode := byteAt B 5,
            payload := slice B headerLength (headerLength + N),
            rawBytes := slice B 0 (headerLength + N + 2) } := by
  unfold parseComplete
  dsimp only
  split
  · simp [*]
  · rename_i h
    rw [Decidable.not_not] at h
    simp [h, eq_comm]

end Sys2Proof.Machine
end

