-- ==== Sys2Proof/Laws/PerInstr.lean ====
section
/-! SUPPORT. The per-instruction family Encoding: the bytes of an instruction start with its row's
opcode and have the total length of its format (R81, R82). -/

namespace Sys2Proof.Laws

/-- The opcode byte of a row (R81). -/
def opcode : Instr → Byte
  | .checksum _ _ _ _ => 0x01#8
  | .encode _ _ _ _ => 0x02#8
  | .parse _ => 0x03#8
  | .push _ => 0x04#8
  | .decode _ _ _ => 0x05#8
  | .readReq _ _ _ => 0x02#8
  | .writeReq _ _ _ => 0x02#8
  | .reserved00 _ => 0x00#8
  | .reserved06 lo _ => 0x06#8 ||| lo.setWidth 8
  | .reserved08 lo _ => 0x08#8 ||| lo.setWidth 8
  | .reserved10 lo _ => 0x10#8 ||| lo.setWidth 8
  | .reserved20 lo _ => 0x20#8 ||| lo.setWidth 8
  | .reserved40 lo _ => 0x40#8 ||| lo.setWidth 8
  | .reserved80 lo _ => 0x80#8 ||| lo.setWidth 8
  | .decodeDistanceLeft _ => 0x05#8
  | .decodeSpeed _ => 0x05#8
  | .decodeTripDistance _ => 0x05#8
  | .decodeTailLight _ => 0x05#8
  | .decodeCruise _ => 0x05#8
  | .decodeGetLock _ => 0x05#8
  | .decodeBatteryVoltage _ => 0x05#8
  | .decodeBatteryCurrent _ => 0x05#8
  | .decodeBatteryPercent _ => 0x05#8
  | .decodeBatteryInfo _ => 0x05#8
  | .decodeBatteryCellVoltages _ => 0x05#8
  | .decodeGeneralInfo _ => 0x05#8
  | .decodeMotorInfo _ => 0x05#8
  | .decodeTripInfo _ => 0x05#8
  | .decodeSupplementary _ => 0x05#8

/-- The total length `m` of a row's command (R82); a reserved opcode may have any bytes after it. -/
def totalLength : Instr → Nat
  | .checksum _ _ _ P => 5 + P.length
  | .encode _ _ _ P => 5 + P.length
  | .parse B => 3 + B.length
  | .push C => 3 + C.length
  | .decode _ _ P => 4 + P.length
  | .readReq _ _ _ => 6
  | .writeReq _ _ P => 5 + P.length
  | .reserved00 rest => 1 + rest.length
  | .reserved06 _ rest => 1 + rest.length
  | .reserved08 _ rest => 1 + rest.length
  | .reserved10 _ rest => 1 + rest.length
  | .reserved20 _ rest => 1 + rest.length
  | .reserved40 _ rest => 1 + rest.length
  | .reserved80 _ rest => 1 + rest.length
  | .decodeDistanceLeft P => 4 + P.length
  | .decodeSpeed P => 4 + P.length
  | .decodeTripDistance P => 4 + P.length
  | .decodeTailLight P => 4 + P.length
  | .decodeCruise P => 4 + P.length
  | .decodeGetLock P => 4 + P.length
  | .decodeBatteryVoltage P => 4 + P.length
  | .decodeBatteryCurrent P => 4 + P.length
  | .decodeBatteryPercent P => 4 + P.length
  | .decodeBatteryInfo P => 4 + P.length
  | .decodeBatteryCellVoltages P => 4 + P.length
  | .decodeGeneralInfo P => 4 + P.length
  | .decodeMotorInfo P => 4 + P.length
  | .decodeTripInfo P => 4 + P.length
  | .decodeSupplementary P => 4 + P.length

/-- The bytes of an instruction start with its opcode and have its total length. -/
def Encoding.Statement (i : Instr) : Prop :=
  ∀ p, (encode p i).head? = some (opcode i) ∧ (encode p i).length = totalLength i

namespace Encoding

theorem checksum (d rw a : Byte) (P : List Byte) : Statement (.checksum d rw a P) :=
  fun _ => ⟨rfl, by simp [encode, encodeFields, totalLength]; omega⟩

theorem encode (d rw a : Byte) (P : List Byte) : Statement (.encode d rw a P) :=
  fun _ => ⟨rfl, by simp [Sys2Proof.encode, encodeFields, totalLength]; omega⟩

theorem parse (B : List Byte) : Statement (.parse B) :=
  fun _ => ⟨rfl, by simp [Sys2Proof.encode, encodeStream, totalLength]; omega⟩

theorem push (C : List Byte) : Statement (.push C) :=
  fun _ => ⟨rfl, by simp [Sys2Proof.encode, encodeStream, totalLength]; omega⟩

theorem decode (d a : Byte) (P : List Byte) : Statement (.decode d a P) :=
  fun _ => ⟨rfl, by simp [Sys2Proof.encode, encodeDfields, totalLength]; omega⟩

theorem readReq (d a n : Byte) : Statement (.readReq d a n) := fun _ => ⟨rfl, rfl⟩

theorem writeReq (d a : Byte) (P : List Byte) : Statement (.writeReq d a P) :=
  fun _ => ⟨rfl, by simp [Sys2Proof.encode, encodeFields, totalLength]; omega⟩

theorem reserved00 (rest : List Byte) : Statement (.reserved00 rest) :=
  fun _ => ⟨rfl, by simp [Sys2Proof.encode, totalLength]; omega⟩

theorem reserved06 (lo : BitVec 1) (rest : List Byte) : Statement (.reserved06 lo rest) :=
  fun _ => ⟨congrArg some ((by decide : ∀ v : BitVec 1, 3#7 ++ v = 0x06#8 ||| v.setWidth 8) lo),
    by simp [Sys2Proof.encode, totalLength]; omega⟩

theorem reserved08 (lo : BitVec 3) (rest : List Byte) : Statement (.reserved08 lo rest) :=
  fun _ => ⟨congrArg some ((by decide : ∀ v : BitVec 3, 1#5 ++ v = 0x08#8 ||| v.setWidth 8) lo),
    by simp [Sys2Proof.encode, totalLength]; omega⟩

theorem reserved10 (lo : BitVec 4) (rest : List Byte) : Statement (.reserved10 lo rest) :=
  fun _ => ⟨congrArg some ((by decide : ∀ v : BitVec 4, 1#4 ++ v = 0x10#8 ||| v.setWidth 8) lo),
    by simp [Sys2Proof.encode, totalLength]; omega⟩

theorem reserved20 (lo : BitVec 5) (rest : List Byte) : Statement (.reserved20 lo rest) :=
  fun _ => ⟨congrArg some ((by decide : ∀ v : BitVec 5, 1#3 ++ v = 0x20#8 ||| v.setWidth 8) lo),
    by simp [Sys2Proof.encode, totalLength]; omega⟩

theorem reserved40 (lo : BitVec 6) (rest : List Byte) : Statement (.reserved40 lo rest) :=
  fun _ => ⟨congrArg some ((by decide : ∀ v : BitVec 6, 1#2 ++ v = 0x40#8 ||| v.setWidth 8) lo),
    by simp [Sys2Proof.encode, totalLength]; omega⟩

theorem reserved80 (lo : BitVec 7) (rest : List Byte) : Statement (.reserved80 lo rest) :=
  fun _ => ⟨congrArg some ((by decide : ∀ v : BitVec 7, 1#1 ++ v = 0x80#8 ||| v.setWidth 8) lo),
    by simp [Sys2Proof.encode, totalLength]; omega⟩

/-- The bytes of every DECODE row alike. -/
theorem ofKind (k : AttrKind) (P : List Byte) : Statement (k.decodeInstr P) := by
  intro p
  cases k <;> exact ⟨rfl, by simp [AttrKind.decodeInstr, Sys2Proof.encode, encodeKind, encodeDfields, totalLength]; omega⟩

theorem decodeDistanceLeft (P : List Byte) : Statement (.decodeDistanceLeft P) :=
  ofKind .distanceLeft P
theorem decodeSpeed (P : List Byte) : Statement (.decodeSpeed P) := ofKind .speed P
theorem decodeTripDistance (P : List Byte) : Statement (.decodeTripDistance P) :=
  ofKind .tripDistance P
theorem decodeTailLight (P : List Byte) : Statement (.decodeTailLight P) := ofKind .tailLight P
theorem decodeCruise (P : List Byte) : Statement (.decodeCruise P) := ofKind .cruise P
theorem decodeGetLock (P : List Byte) : Statement (.decodeGetLock P) := ofKind .getLock P
theorem decodeBatteryVoltage (P : List Byte) : Statement (.decodeBatteryVoltage P) :=
  ofKind .batteryVoltage P
theorem decodeBatteryCurrent (P : List Byte) : Statement (.decodeBatteryCurrent P) :=
  ofKind .batteryCurrent P
theorem decodeBatteryPercent (P : List Byte) : Statement (.decodeBatteryPercent P) :=
  ofKind .batteryPercent P
theorem decodeBatteryInfo (P : List Byte) : Statement (.decodeBatteryInfo P) :=
  ofKind .batteryInfo P
theorem decodeBatteryCellVoltages (P : List Byte) : Statement (.decodeBatteryCellVoltages P) :=
  ofKind .batteryCellVoltages P
theorem decodeGeneralInfo (P : List Byte) : Statement (.decodeGeneralInfo P) :=
  ofKind .generalInfo P
theorem decodeMotorInfo (P : List Byte) : Statement (.decodeMotorInfo P) := ofKind .motorInfo P
theorem decodeTripInfo (P : List Byte) : Statement (.decodeTripInfo P) := ofKind .tripInfo P
theorem decodeSupplementary (P : List Byte) : Statement (.decodeSupplementary P) :=
  ofKind .supplementary P

end Encoding

end Sys2Proof.Laws
end

