-- ==== Sys2Proof/Laws/State.lean ====
section
/-! SUPPORT. One lemma per field per update of the state, so that no proof unfolds a record update. -/

namespace Sys2Proof.Machine

variable (s : State) (r : Response) (es : List Entry) (evs : List HostEvent) (cmd : List Byte)

@[simp] theorem State.respond_params : (s.respond r).params = s.params := rfl
@[simp] theorem State.respond_pend : (s.respond r).pend = s.pend := rfl
@[simp] theorem State.respond_port : (s.respond r).port = s.port := rfl
@[simp] theorem State.respond_responses : (s.respond r).responses = s.responses ++ [r] := rfl

@[simp] theorem State.setPend_params : (s.setPend es).params = s.params := rfl
@[simp] theorem State.setPend_pend : (s.setPend es).pend = es := rfl
@[simp] theorem State.setPend_port : (s.setPend es).port = s.port := rfl
@[simp] theorem State.setPend_responses : (s.setPend es).responses = s.responses := rfl

@[simp] theorem State.setPort_params : (s.setPort evs).params = s.params := rfl
@[simp] theorem State.setPort_pend : (s.setPort evs).pend = s.pend := rfl
@[simp] theorem State.setPort_port : (s.setPort evs).port = evs := rfl
@[simp] theorem State.setPort_responses : (s.setPort evs).responses = s.responses := rfl

@[simp] theorem State.clearStore_params : s.clearStore.params = s.params := rfl
@[simp] theorem State.clearStore_pend : s.clearStore.pend = [] := rfl
@[simp] theorem State.clearStore_port : s.clearStore.port = s.port := rfl
@[simp] theorem State.clearStore_responses : s.clearStore.responses = s.responses := rfl

@[simp] theorem State.presentCommand_params : (s.presentCommand cmd).params = s.params := rfl
@[simp] theorem State.presentCommand_pend : (s.presentCommand cmd).pend = s.pend := rfl
@[simp] theorem State.presentCommand_port :
    (s.presentCommand cmd).port = .command cmd :: s.port := rfl
@[simp] theorem State.presentCommand_responses :
    (s.presentCommand cmd).responses = s.responses := rfl

@[simp] theorem Response.alone_status (st : Status) : (Response.alone st).status = st := rfl

@[simp] theorem State.reset_pend : State.reset.pend = [] := rfl
@[simp] theorem State.reset_params : State.reset.params = Params.default := rfl

end Sys2Proof.Machine
end

