-- ==== Sys2Proof/Laws/Reassembler.lean ====
section
/-! SUPPORT. What the steps of PUSH can do, once for each: expiry, the two scans, ageing, and the store
and response of a whole PUSH (R141 to R151). -/

namespace Sys2Proof.Machine

/-- Expiry keeps exactly the survivors (R141). -/
theorem unexpired_eq_survivors (p : Params) (es : List Entry) :
    unexpired p es = survivors p es := by
  unfold unexpired survivors
  split
  · rename_i h
    simp [expires, h]
  · rename_i h
    congr 1
    funext e
    simp only [expires, show 0 < p.pendMaxAge by omega, decide_true, Bool.true_and, Bool.not_eq_eq_eq_not]
    rcases Nat.lt_or_ge e.age.val p.pendMaxAge with hl | hl
    · simp [hl]
    · simp [hl, Nat.not_lt.mpr hl]

/-- The reported number of expired entries (R141). -/
theorem length_sub_unexpired (p : Params) (es : List Entry) :
    es.length - (unexpired p es).length = expiredCount p es := by
  rw [unexpired_eq_survivors]
  unfold survivors expiredCount
  split
  · simp
  · rw [← List.countP_eq_length_filter]
    have h := List.length_eq_countP_add_countP (fun e : Entry => decide (e.age.val < p.pendMaxAge)) (l := es)
    have e : List.countP (fun e : Entry => decide ¬(decide (e.age.val < p.pendMaxAge)) = true) es =
        List.countP (fun e : Entry => decide (p.pendMaxAge ≤ e.age.val)) es := by
      congr 1
      funext e
      simp
    omega

/-- A PUSH that is neither too long nor empty works on the survivors and reports the others (R150). -/
theorem pushChunk_eq (p : Params) (pend : List Entry) (C : List Byte) : pushChunk p pend C =
    ((pushByStatus p (survivors p pend) C (parse C)).1,
      { (pushByStatus p (survivors p pend) C (parse C)).2.1 with
        parseStatus := some (parse C).status
        evicted := some (pushByStatus p (survivors p pend) C (parse C)).2.2
        expired := some (expiredCount p pend) }) := by
  rw [← length_sub_unexpired, ← unexpired_eq_survivors]
  rfl

theorem survivors_sublist (p : Params) (es : List Entry) : (survivors p es).Sublist es := by
  unfold survivors
  split
  · exact List.Sublist.refl _
  · exact List.filter_sublist

theorem mem_of_mem_survivors {p : Params} {es : List Entry} {e : Entry} (h : e ∈ survivors p es) :
    e ∈ es := (survivors_sublist p es).subset h

theorem survivors_length_le (p : Params) (es : List Entry) : (survivors p es).length ≤ es.length :=
  (survivors_sublist p es).length_le

@[simp] theorem survivors_nil (p : Params) : survivors p [] = [] := by simp [survivors]

@[simp] theorem Entry.older_bytes (e : Entry) : e.older.bytes = e.bytes := rfl

@[simp] theorem Entry.older_age (e : Entry) : e.older.age.val = min (e.age.val + 1) 255 := rfl

theorem ageAll_eq_map (es : List Entry) : ageAll es = es.map Entry.older := rfl

@[simp] theorem ageAll_length (es : List Entry) : (ageAll es).length = es.length := by
  simp [ageAll]

/-- An aged entry has the bytes of an entry that was there. -/
theorem exists_of_mem_ageAll {es : List Entry} {e : Entry} (h : e ∈ ageAll es) :
    ∃ e' ∈ es, e = e'.older := by
  obtain ⟨e', h', rfl⟩ := List.mem_map.mp h
  exact ⟨e', h', rfl⟩

/-- The combination scan finds nothing exactly when no entry is completed (R147). -/
theorem firstComplete_eq_none {C : List Byte} {es : List Entry} :
    firstComplete C es = none ↔ ∀ e ∈ es, ∀ g, parse (e.bytes ++ C) ≠ .ok g := by
  induction es with
  | nil => simp [firstComplete]
  | cons e es ih =>
    unfold firstComplete
    split
    · rename_i f h
      simp [h]
    · rename_i h
      simp only [Option.map_eq_none_iff, ih, List.mem_cons, forall_eq_or_imp]
      exact ⟨fun k => ⟨fun g => h g, k⟩, fun k => k.2⟩

/-- The combination scan finds the oldest entry the chunk completes (R147, R148). -/
theorem firstComplete_eq_some {C : List Byte} {es : List Entry} {i : Nat} {f : Frame} :
    firstComplete C es = some (i, f) ↔ ∃ h : i < es.length, parse (es[i].bytes ++ C) = .ok f ∧
      ∀ j (hj : j < i), ∀ g, parse ((es[j]'(Nat.lt_trans hj h)).bytes ++ C) ≠ .ok g := by
  induction es generalizing i with
  | nil => simp [firstComplete]
  | cons e es ih =>
    unfold firstComplete
    split
    · rename_i f' h
      constructor
      · rintro ⟨⟩
        exact ⟨Nat.zero_lt_succ _, h, fun j hj => absurd hj (Nat.not_lt_zero j)⟩
      · rintro ⟨hi, hf, hj⟩
        cases i with
        | zero => simp_all
        | succ i => exact absurd h (hj 0 (Nat.zero_lt_succ i) f')
    · rename_i hne
      cases i with
      | zero =>
        constructor
        · simp
        · rintro ⟨hi, hf, -⟩
          exact absurd hf (hne f)
      | succ i =>
        have e' : (Option.map (fun x : Nat × Frame => (x.1 + 1, x.2)) (firstComplete C es) =
            some (i + 1, f)) ↔ firstComplete C es = some (i, f) := by
          cases firstComplete C es with
          | none => simp
          | some x => cases x; simp
        refine Iff.trans e' (Iff.trans ih ?_)
        constructor
        · rintro ⟨hi, hf, hj⟩
          refine ⟨by simpa using hi, hf, fun j hj' g => ?_⟩
          cases j with
          | zero => exact hne g
          | succ j => exact hj j (Nat.lt_of_succ_lt_succ hj') g
        · rintro ⟨hi, hf, hj⟩
          exact ⟨by simpa using hi, hf, fun j hj' g => hj (j + 1) (Nat.succ_lt_succ hj') g⟩

/-- The accumulation scan finds the oldest entry the chunk extends (R149). -/
theorem firstExtended_eq_some {C : List Byte} {es : List Entry} {i : Nat} :
    firstExtended C es = some i ↔ ∃ h : i < es.length, parse (es[i].bytes ++ C) = .disjointed ∧
      ∀ j (hj : j < i), parse ((es[j]'(Nat.lt_trans hj h)).bytes ++ C) ≠ .disjointed := by
  simp [firstExtended, List.findIdx?_eq_some_iff_getElem]

theorem firstExtended_eq_none {C : List Byte} {es : List Entry} :
    firstExtended C es = none ↔ ∀ e ∈ es, parse (e.bytes ++ C) ≠ .disjointed := by
  simp [firstExtended]

/-- The outcomes of a chunk that starts no frame: combined, accumulated or dropped (R147 to R149). -/
theorem pushTail_cases (p : Params) (es : List Entry) (C : List Byte) :
    (∃ i f, firstComplete C es = some (i, f) ∧ pushTail p es C =
      (ageAll (es.eraseIdx i), { status := .dispatchedCombined, index := some i, frame := some f, decode := some (decodeFrame p f) })) ∨
    (firstComplete C es = none ∧ p.accumulate = true ∧ ∃ i, firstExtended C es = some i ∧
      pushTail p es C = (growAt C (ageAll es) i, { status := .accumulated, index := some i })) ∨
    (firstComplete C es = none ∧ (p.accumulate = true → firstExtended C es = none) ∧
      pushTail p es C = (ageAll es, { status := .discardedNoMatch })) := by
  unfold pushTail
  rcases h : firstComplete C es with _ | ⟨i, f⟩
  · cases ha : p.accumulate
    · simp
    · rcases he : firstExtended C es with _ | i <;> simp
  · simp

/-- The outcomes of a PUSH that is neither too long nor empty: what the store becomes (R153). -/
theorem pushChunk_store_cases (p : Params) (pend : List Entry) (C : List Byte) :
    (pushChunk p pend C).1 = ageAll (unexpired p pend) ∨
    (parse C = .disjointed ∧ (pushChunk p pend C).1 =
      ageAll (evictIfFull p (unexpired p pend)) ++ [{ bytes := C, age := 0 }]) ∨
    (∃ i f, firstComplete C (unexpired p pend) = some (i, f) ∧
      (pushChunk p pend C).1 = ageAll ((unexpired p pend).eraseIdx i)) ∨
    (∃ i, firstExtended C (unexpired p pend) = some i ∧
      (pushChunk p pend C).1 = growAt C (ageAll (unexpired p pend)) i) := by
  unfold pushChunk
  dsimp only
  cases h : parse C with
  | ok f => simp [pushByStatus]
  | invalidChecksum => simp [pushByStatus]
  | disjointed => simp [pushByStatus]
  | invalidHeader =>
    simp only [pushByStatus]
    rcases pushTail_cases p (unexpired p pend) C with ⟨i, f, hf, e⟩ | ⟨-, -, i, hi, e⟩ | ⟨-, -, e⟩
    · exact .inr (.inr (.inl ⟨i, f, hf, by rw [e]⟩))
    · exact .inr (.inr (.inr ⟨i, hi, by rw [e]⟩))
    · exact .inl (by rw [e])

/-- PUSH of a chunk that is neither too long nor empty (R150). -/
theorem execPush_of_chunk {C : List Byte} {s : State} (hl : C.length ≤ s.params.chunkMax)
    (hne : C ≠ []) : execPush C s =
      .next ((s.setPend (pushChunk s.params s.pend C).1).respond (pushChunk s.params s.pend C).2) := by
  simp [execPush, Nat.not_lt.mpr hl, hne]

end Sys2Proof.Machine
end

