-- ==== Sys2Proof/Laws/Step.lean ====
section
/-! SUPPORT. What a step can do, once (R49, R80), and what the check of the store answers (R23). -/

namespace Sys2Proof.Machine

/-- The store check passes exactly when every entry is sound (R23). -/
theorem badEntry_eq_none {s : State} : badEntry s = none ↔ ∀ e ∈ s.pend, e.Sound := by
  simp [badEntry, Entry.Sound]

theorem badEntry_setPort (s : State) (evs : List HostEvent) :
    badEntry (s.setPort evs) = badEntry s := rfl

theorem step_illegal {s : State} (h : ¬ s.params.Legal) : step s = .refused .instanceNotBuilt := by
  rw [step, if_neg h]

theorem step_idle {s : State} (h : s.params.Legal) (hp : s.port = []) : step s = .next s := by
  rw [step, if_pos h]
  simp [fetch, hp]

/-- A step on a built machine with an event presented is that event's effect. -/
theorem step_event {s : State} (h : s.params.Legal) {ev : HostEvent} {rest : List HostEvent}
    (hp : s.port = ev :: rest) : step s = takeEvent ev (s.setPort rest) := by
  rw [step, if_pos h]
  simp [fetch, hp]

/-- The command of a step on a sound store: the decoded instruction, or REJECTED_MALFORMED. -/
theorem step_command {s : State} (h : s.params.Legal) (hs : ∀ e ∈ s.pend, e.Sound) {cmd : List Byte}
    {rest : List HostEvent} (hp : s.port = .command cmd :: rest) :
    step s = match decode s.params cmd with
      | .ok i => exec i (s.setPort rest)
      | .error _ => rejectMalformed (s.setPort rest) := by
  rw [step_event h hp]
  simp only [takeEvent, runCommand, badEntry_setPort, badEntry_eq_none.mpr hs]
  rfl

/-- The inversion of a step: idle, a reset, a rejected command, or the meaning of a decoded one. -/
theorem step_next_cases {s t : State} (h : step s = .next t) : s.params.Legal ∧
    ((s.port = [] ∧ t = s) ∨
     (∃ rest, (s.port = .reset :: rest ∨ ∃ cmd, s.port = .resetDuring cmd :: rest) ∧
       t = (s.setPort rest).clearStore) ∨
     (∃ cmd rest, s.port = .command cmd :: rest ∧ (∀ e ∈ s.pend, e.Sound) ∧
       ((∃ err, decode s.params cmd = .error err ∧
           t = (s.setPort rest).respond (.alone .rejectedMalformed)) ∨
        ∃ i, decode s.params cmd = .ok i ∧ exec i (s.setPort rest) = .next t))) := by
  by_cases hl : s.params.Legal
  · refine ⟨hl, ?_⟩
    rcases hp : s.port with _ | ⟨ev, rest⟩
    · rw [step_idle hl hp] at h
      cases h
      exact .inl ⟨rfl, rfl⟩
    · have he := step_event hl hp
      rw [h] at he
      cases ev with
      | reset =>
        cases he
        exact .inr (.inl ⟨rest, .inl rfl, rfl⟩)
      | resetDuring cmd =>
        cases he
        exact .inr (.inl ⟨rest, .inr ⟨cmd, rfl⟩, rfl⟩)
      | command cmd =>
        refine .inr (.inr ⟨cmd, rest, rfl, ?_⟩)
        simp only [takeEvent, runCommand, badEntry_setPort, State.setPort_params] at he
        rcases hb : badEntry s with _ | i
        · refine ⟨badEntry_eq_none.mp hb, ?_⟩
          rw [hb] at he
          dsimp only at he
          rcases hd : decode s.params cmd with err | i
          · rw [hd] at he
            cases he
            exact .inl ⟨err, rfl, rfl⟩
          · rw [hd] at he
            exact .inr ⟨i, rfl, he.symm⟩
        · rw [hb] at he
          cases he
  · rw [step_illegal hl] at h
    cases h

end Sys2Proof.Machine
end

