-- ==== Sys2Proof/Tests/Slice0.lean ====
section
/-! SUPPORT. The model's own tests: the well-formedness smoke test, each constructor's command bytes
written out from the spec's encoding of it, steps taken from the vectors of 95_test_vectors.md, and
    for
each statement with hypotheses a witness that meets them. -/

namespace Sys2Proof.Tests

open Sys2Proof.Machine

/-- The response a step or an instruction returned last. -/
def answer : Host.Outcome State Fault Refusal → Option Response
  | .next s => s.responses.getLast?
  | _ => none

/-- The pending store after a step or an instruction. -/
def storeAfter : Host.Outcome State Fault Refusal → Option (List Entry)
  | .next s => some s.pend
  | _ => none

/-- The reset state with these entries in the store. -/
def withStore (es : List Entry) : State := { State.reset with pend := es }

/-- The reset state of an instance built with these parameters, with these entries in the store. -/
def built (p : Params) (es : List Entry) : State := { State.reset with params := p, pend := es }

/-- The reset state with these entries in the store and these events at the port. -/
def facing (es : List Entry) (evs : List HostEvent) : State :=
  { State.reset with pend := es, port := evs }

/-- `n` bytes of `FF`. -/
def ones (n : Nat) : List Byte := List.replicate n 0xFF#8

/-- The frame of W1. -/
def w1 : Frame where
  direction := 0x22#8
  readWrite := 0x01#8
  attrCode := 0x34#8
  payload := [0x02#8]
  rawBytes := [0x55#8, 0xAA#8, 0x03#8, 0x22#8, 0x01#8, 0x34#8, 0x02#8, 0xA3#8, 0xFF#8]

/-- The frame of V-E11, whose payload is the two header bytes. -/
def e11 : Frame where
  direction := 0x20#8
  readWrite := 0x01#8
  attrCode := 0x34#8
  payload := [0x55#8, 0xAA#8]
  rawBytes := [0x55#8, 0xAA#8, 0x04#8, 0x20#8, 0x01#8, 0x34#8, 0x55#8, 0xAA#8, 0xA7#8, 0xFE#8]

/-! ### Well-formedness refuses each ill-formed term -/

theorem test_payload_count_must_fit :
    (Instr.checksum 0#8 0#8 0#8 (ones 256)).wellFormed Params.default = false ∧
    (Instr.writeReq 0#8 0#8 (ones 256)).wellFormed Params.default = false ∧
    (Instr.decodeSpeed (ones 256)).wellFormed Params.default = false := by
  decide +kernel

theorem test_sequence_count_must_fit (B : List Byte) (h : B.length = 65536) :
    (Instr.parse B).wellFormed Params.default = false ∧
    (Instr.push B).wellFormed Params.default = false := by
  simp [Instr.wellFormed, fitsHalfCount, h]

theorem test_read_request_is_not_spelled_encode :
    (Instr.encode 0x22#8 0x01#8 0x31#8 [0x0A#8]).wellFormed Params.default = false := by decide

theorem test_write_request_is_not_spelled_encode :
    (Instr.encode 0x20#8 0x03#8 0x7D#8 [0x02#8, 0x00#8]).wellFormed Params.default = false := by
        decide

theorem test_known_key_is_not_spelled_decode :
    (Instr.decode 0x25#8 0x34#8 [0x88#8, 0x13#8]).wellFormed Params.default = false := by decide

theorem test_plain_terms_are_well_formed :
    (Instr.encode 0x22#8 0x01#8 0x31#8 [0x0A#8, 0x0B#8]).wellFormed Params.default = true ∧
    (Instr.decode 0x23#8 0x34#8 [0x88#8, 0x13#8]).wellFormed Params.default = true ∧
    (Instr.checksum 0#8 0#8 0#8 (ones 255)).wellFormed Params.default = true := by
  decide +kernel

/-! ### Each constructor's bytes, from R81, R82, R87 and R89 -/

theorem test_word_checksum : decode Params.default [0x01#8, 0x23#8, 0x02#8, 0xB0#8, 0x02#8, 0x07#8,
    0x08#8] =
    .ok (.checksum 0x23#8 0x02#8 0xB0#8 [0x07#8, 0x08#8]) := by decide

theorem test_word_encode : decode Params.default [0x02#8, 0x22#8, 0x01#8, 0x34#8, 0x02#8, 0x07#8,
    0x08#8] =
    .ok (.encode 0x22#8 0x01#8 0x34#8 [0x07#8, 0x08#8]) := by decide

theorem test_word_parse : decode Params.default [0x03#8, 0x03#8, 0x00#8, 0x55#8, 0xAA#8, 0x03#8] =
    .ok (.parse [0x55#8, 0xAA#8, 0x03#8]) := by decide

theorem test_word_push : decode Params.default [0x04#8, 0x02#8, 0x00#8, 0x55#8, 0xAB#8] = .ok
    (.push [0x55#8, 0xAB#8]) := by decide

theorem test_word_decode : decode Params.default [0x05#8, 0x22#8, 0x34#8, 0x01#8, 0x02#8] =
    .ok (.decode 0x22#8 0x34#8 [0x02#8]) := by decide

theorem test_word_read_req : decode Params.default [0x02#8, 0x20#8, 0x01#8, 0xB0#8, 0x01#8, 0x20#8]
    =
    .ok (.readReq 0x20#8 0xB0#8 0x20#8) := by decide

theorem test_word_write_req : decode Params.default [0x02#8, 0x20#8, 0x03#8, 0x7D#8, 0x02#8,
    0x02#8, 0x00#8] =
    .ok (.writeReq 0x20#8 0x7D#8 [0x02#8, 0x00#8]) := by decide

theorem test_word_reserved00 : decode Params.default [0x00#8, 0x55#8] = .ok (.reserved00 [0x55#8])
    := by decide

theorem test_word_reserved06 : decode Params.default [0x07#8] = .ok (.reserved06 1#1 []) := by
    decide

theorem test_word_reserved08 : decode Params.default [0x0D#8] = .ok (.reserved08 5#3 []) := by
    decide

theorem test_word_reserved10 : decode Params.default [0x1E#8] = .ok (.reserved10 14#4 []) := by
    decide

theorem test_word_reserved20 : decode Params.default [0x25#8] = .ok (.reserved20 5#5 []) := by
    decide

theorem test_word_reserved40 : decode Params.default [0x77#8] = .ok (.reserved40 55#6 []) := by
    decide

theorem test_word_reserved80 : decode Params.default [0x8C#8, 0x01#8] =
    .ok (.reserved80 12#7 [0x01#8]) := by decide

theorem test_word_distance_left : decode Params.default [0x05#8, 0x23#8, 0x25#8, 0x02#8, 0xD2#8,
    0x04#8] =
    .ok (.decodeDistanceLeft [0xD2#8, 0x04#8]) := by decide

theorem test_word_speed : decode Params.default [0x05#8, 0x23#8, 0xB5#8, 0x02#8, 0x9C#8, 0xFF#8] =
    .ok (.decodeSpeed [0x9C#8, 0xFF#8]) := by decide

theorem test_word_trip_distance : decode Params.default [0x05#8, 0x23#8, 0xB9#8, 0x02#8, 0xF4#8,
    0x01#8] =
    .ok (.decodeTripDistance [0xF4#8, 0x01#8]) := by decide

theorem test_word_tail_light : decode Params.default [0x05#8, 0x23#8, 0x7D#8, 0x02#8, 0x02#8,
    0x00#8] =
    .ok (.decodeTailLight [0x02#8, 0x00#8]) := by decide

theorem test_word_cruise : decode Params.default [0x05#8, 0x23#8, 0x7C#8, 0x02#8, 0x01#8, 0x00#8] =
    .ok (.decodeCruise [0x01#8, 0x00#8]) := by decide

theorem test_word_get_lock : decode Params.default [0x05#8, 0x23#8, 0xB2#8, 0x02#8, 0x06#8, 0x00#8]
    =
    .ok (.decodeGetLock [0x06#8, 0x00#8]) := by decide

theorem test_word_battery_voltage : decode Params.default [0x05#8, 0x25#8, 0x34#8, 0x00#8] =
    .ok (.decodeBatteryVoltage []) := by decide

theorem test_word_battery_current : decode Params.default [0x05#8, 0x25#8, 0x33#8, 0x02#8, 0x38#8,
    0xFF#8] =
    .ok (.decodeBatteryCurrent [0x38#8, 0xFF#8]) := by decide

theorem test_word_battery_percent : decode Params.default [0x05#8, 0x25#8, 0x32#8, 0x02#8, 0x32#8,
    0x00#8] =
    .ok (.decodeBatteryPercent [0x32#8, 0x00#8]) := by decide

theorem test_word_battery_info : decode Params.default
    [0x05#8, 0x25#8, 0x31#8, 0x0A#8, 0xE8#8, 0x03#8, 0x32#8, 0x00#8, 0x64#8, 0x00#8, 0x88#8,
        0x13#8, 0x2E#8, 0x2E#8] =
    .ok (.decodeBatteryInfo [0xE8#8, 0x03#8, 0x32#8, 0x00#8, 0x64#8, 0x00#8, 0x88#8, 0x13#8,
        0x2E#8, 0x2E#8]) := by decide

theorem test_word_battery_cell_voltages : decode Params.default [0x05#8, 0x25#8, 0x40#8, 0x01#8,
    0x90#8] =
    .ok (.decodeBatteryCellVoltages [0x90#8]) := by decide

theorem test_word_general_info : decode Params.default [0x05#8, 0x23#8, 0x10#8, 0x01#8, 0x31#8] =
    .ok (.decodeGeneralInfo [0x31#8]) := by decide

theorem test_word_motor_info : decode Params.default [0x05#8, 0x23#8, 0xB0#8, 0x01#8, 0x00#8] =
    .ok (.decodeMotorInfo [0x00#8]) := by decide

theorem test_word_trip_info : decode Params.default
    [0x05#8, 0x23#8, 0x3A#8, 0x0A#8, 0x2C#8, 0x01#8, 0x55#8, 0xAA#8, 0x00#8, 0x00#8, 0x00#8,
        0x00#8, 0xF1#8, 0xFF#8] =
    .ok (.decodeTripInfo [0x2C#8, 0x01#8, 0x55#8, 0xAA#8, 0x00#8, 0x00#8, 0x00#8, 0x00#8, 0xF1#8,
        0xFF#8]) := by decide

theorem test_word_supplementary : decode Params.default [0x05#8, 0x23#8, 0x7B#8, 0x06#8, 0x01#8,
    0x00#8, 0x01#8, 0x00#8, 0x02#8, 0x00#8] =
    .ok (.decodeSupplementary [0x01#8, 0x00#8, 0x01#8, 0x00#8, 0x02#8, 0x00#8]) := by decide

/-- V-X01, V-X05 to V-X09: bytes that are no well-formed command, refused by name. -/
theorem test_words_refused : decode Params.default [] = .error .empty ∧
    decode Params.default [0x03#8, 0x05#8] = .error .shortFixedPart ∧
    decode Params.default [0x01#8, 0x22#8, 0x01#8, 0x34#8, 0x02#8, 0x02#8] = .error .lengthDiffers ∧
    decode Params.default [0x05#8, 0x25#8, 0x34#8, 0x02#8, 0x88#8] = .error .lengthDiffers ∧
    decode Params.default [0x03#8, 0x02#8, 0x00#8, 0x55#8] = .error .lengthDiffers := by decide

/-- Table rows as the table numbers them: row 1's word, a reserved row's, and DECODE.SPEED's key. -/
theorem test_table_words : decodeTableWord 8 0x01 = some (.checksum 0#8 0#8 0#8 []) ∧
    decodeTableWord 8 0x40 = some (.reserved40 0#6 []) ∧
    decodeTableWord 16 0x23B5 = some (.decodeSpeed []) ∧
    answer (step (State.reset.withFetchWord 16 0x23B5)) = some (.alone .lengthMismatch) := by decide

/-! ### Steps from the vectors of 95_test_vectors.md -/

/-- V-C01. -/
theorem test_checksum_w1 : answer (exec (.checksum 0x22#8 0x01#8 0x34#8 [0x02#8]) .reset) =
    some { status := .ok, checksum := some 0xFFA3#16 } := by
  decide +kernel

/-- V-C07. -/
theorem test_checksum_battery_info :
    answer (exec (.checksum 0x25#8 0x01#8 0x31#8 [0xE8#8, 0x03#8, 0x32#8, 0x00#8, 0x64#8, 0x00#8,
        0x88#8, 0x13#8, 0x2E#8, 0x2E#8]) .reset) =
    some { status := .ok, checksum := some 0xFD24#16 } := by
  decide +kernel

/-- V-E11. -/
theorem test_encode_copies_header_bytes :
    answer (exec (.encode 0x20#8 0x01#8 0x34#8 [0x55#8, 0xAA#8]) .reset) =
    some { status := .ok,
           frameBytes := some [0x55#8, 0xAA#8, 0x04#8, 0x20#8, 0x01#8, 0x34#8, 0x55#8, 0xAA#8,
        0xA7#8, 0xFE#8] } := by decide

/-- V-E01, V-E12: the shortest frame, and unnamed fields. -/
theorem test_encode_empty_payload :
    answer (exec (.encode 0x00#8 0x00#8 0x00#8 []) .reset) =
    some { status := .ok,
           frameBytes := some [0x55#8, 0xAA#8, 0x02#8, 0x00#8, 0x00#8, 0x00#8, 0xFD#8, 0xFF#8] } :=
        by decide

/-- V-E03. -/
theorem test_read_req : answer (exec (.readReq 0x22#8 0x31#8 0x0A#8) .reset) =
    some { status := .ok,
           frameBytes := some [0x55#8, 0xAA#8, 0x03#8, 0x22#8, 0x01#8, 0x31#8, 0x0A#8, 0x9E#8,
        0xFF#8] } := by decide

/-- V-E10. -/
theorem test_write_req : answer (exec (.writeReq 0x20#8 0x7D#8 [0x02#8, 0x00#8]) .reset) =
    some { status := .ok,
           frameBytes := some [0x55#8, 0xAA#8, 0x04#8, 0x20#8, 0x03#8, 0x7D#8, 0x02#8, 0x00#8,
        0x59#8, 0xFF#8] } := by decide

/-- V-P02. -/
theorem test_parse_ignores_trailing :
    answer (exec (.parse [0x55#8, 0xAA#8, 0x03#8, 0x22#8, 0x01#8, 0x34#8, 0x02#8, 0xA3#8, 0xFF#8,
        0x55#8, 0xAA#8, 0x03#8]) .reset) = some
    { status := .ok, frame := some w1 } := by decide

/-- V-P03 to V-P11, V-P14, V-P18. -/
theorem test_parse_statuses :
    [[], [0x55#8], [0x56#8], [0x55#8, 0xAA#8, 0x03#8, 0x22#8, 0x01#8], [0x55#8, 0xAB#8, 0x03#8],
        [0xAA#8, 0x55#8, 0x03#8, 0x22#8, 0x01#8, 0x34#8, 0x02#8, 0xA3#8, 0xFF#8], [0x55#8, 0xAA#8,
        0x03#8, 0x22#8, 0x01#8, 0x34#8, 0x02#8, 0xA3#8], [0x55#8, 0xAA#8, 0x01#8, 0x22#8, 0x01#8,
        0x34#8], [0x55#8, 0xAA#8, 0x03#8, 0x22#8, 0x01#8, 0x34#8, 0x02#8, 0xA3#8, 0xFE#8], [0x55#8,
        0xAA#8, 0x02#8, 0x22#8, 0x01#8, 0x34#8, 0x02#8, 0xA3#8, 0xFF#8], [0x55#8, 0xAA#8, 0x02#8,
        0x22#8, 0x01#8, 0x34#8, 0xFF#8, 0xA6#8], [0x55#8, 0xAA#8, 0x02#8, 0x22#8, 0x01#8, 0x34#8,
        0xA6#8, 0xFF#8]].map (fun B => (parse B).status) =
    [.disjointed, .disjointed, .invalidHeader, .disjointed, .invalidHeader, .invalidHeader,
     .disjointed, .invalidChecksum, .invalidChecksum, .invalidChecksum, .invalidChecksum, .ok] :=
         by decide

/-- The store of V-R16: two heads of frames. -/
def speedHead : List Entry :=
  [{ bytes := [0x55#8, 0xAA#8, 0x04#8, 0x25#8, 0x01#8, 0x34#8], age := 1 },
   { bytes := [0x55#8, 0xAA#8, 0x04#8, 0x23#8, 0x01#8, 0xB5#8], age := 0 }]

/-- V-R16: the second entry is completed, and the first is aged. -/
theorem test_push_combines_second_entry :
    (answer (exec (.push [0x9C#8, 0xFF#8, 0x87#8, 0xFD#8]) (withStore speedHead))).map (fun r =>
        (r.status, r.parseStatus, r.index, r.decode.bind (·.fields))) =
      some (.dispatchedCombined, some .invalidHeader, some 1, some
        [numField .speed 0 .speedKmh (-100) (.div 100 .kmPerHour) (.ratio (-100) 100 .kmPerHour)]) ∧
    storeAfter (exec (.push [0x9C#8, 0xFF#8, 0x87#8, 0xFD#8]) (withStore speedHead)) =
      some [{ bytes := [0x55#8, 0xAA#8, 0x04#8, 0x25#8, 0x01#8, 0x34#8], age := 2 }] := by decide

/-- The instance and the full store of V-R06. -/
def depthTwo : State := built { Params.default with pendDepth := 2 }
  [{ bytes := [0x55#8, 0xAA#8, 0x03#8, 0x22#8, 0x01#8], age := 1 },
   { bytes := [0x55#8, 0xAA#8, 0x04#8, 0x25#8], age := 0 }]

/-- V-R06: the oldest entry of a full store of two is evicted. -/
theorem test_push_evicts_oldest :
    answer (exec (.push [0x55#8]) depthTwo) = some (pushReply .buffered .disjointed 1 0) ∧
    storeAfter (exec (.push [0x55#8]) depthTwo) =
      some [{ bytes := [0x55#8, 0xAA#8, 0x04#8, 0x25#8], age := 1 }, { bytes := [0x55#8],
                                                                       age := 0 }] := by decide

/-- V-D40. -/
theorem test_decode_request_unhandled : answer (exec (.decode 0x22#8 0x34#8 [0x02#8]) .reset) =
    some { status := .unhandled } := by decide

/-- V-D16: DECODE itself under a known key. -/
theorem test_decode_known_key : answer (exec (.decode 0x25#8 0x34#8 [0x88#8, 0x13#8]) .reset) = some
    (decodedResponse .batteryVoltage [numField .batteryVoltage 0 .batteryVoltage 5000 (.div 100
        .volt) (.ratio 5000 100 .volt)]) := by decide

/-- The values of a DECODED response. -/
def values (i : Instr) : Option (List Value) :=
  (answer (exec i .reset)).bind fun r => r.fields.map fun fs => fs.map Field.value

/-- V-D01. -/
theorem test_distance_left : values (.decodeDistanceLeft [0xD2#8, 0x04#8]) =
    some [.ratio 1234 100 .km] := by decide

/-- V-D05. -/
theorem test_speed_most_negative : values (.decodeSpeed [0x00#8, 0x80#8]) =
    some [.ratio (-32768) 100 .kmPerHour] := by decide

/-- V-D08. -/
theorem test_trip_distance : values (.decodeTripDistance [0xF4#8, 0x01#8]) =
    some [.int 500 .metre] := by decide

/-- V-D09, V-D10. -/
theorem test_tail_light : values (.decodeTailLight [0x02#8, 0x00#8]) = some [.bool true] ∧
    values (.decodeTailLight [0x02#8, 0x01#8]) = some [.bool false] := by decide

/-- V-D12, V-D13. -/
theorem test_cruise : values (.decodeCruise [0x01#8, 0x00#8]) = some [.bool true] ∧
    values (.decodeCruise [0x02#8, 0x00#8]) = some [.bool false] := by decide

/-- V-D14, V-D15. -/
theorem test_get_lock : values (.decodeGetLock [0x02#8, 0x00#8]) = some [.bool true] ∧
    values (.decodeGetLock [0x06#8, 0x00#8]) = some [.bool false] := by decide

/-- V-D17, V-D38. -/
theorem test_battery_voltage : values (.decodeBatteryVoltage [0xFF#8, 0xFF#8]) =
      some [.ratio 65535 100 .volt] ∧
    answer (exec (.decodeBatteryVoltage [0x88#8, 0x13#8, 0x00#8]) .reset) = some (.alone
        .lengthMismatch) := by
  decide

/-- V-D18. -/
theorem test_battery_current : values (.decodeBatteryCurrent [0x38#8, 0xFF#8]) =
    some [.ratio (-200) 100 .ampere] := by decide

/-- V-D21. -/
theorem test_battery_percent : values (.decodeBatteryPercent [0xC8#8, 0x00#8]) =
    some [.int 200 .percent] := by decide

/-- V-D23. -/
theorem test_battery_info : values (.decodeBatteryInfo [0x00#8, 0x00#8, 0xFF#8, 0x00#8, 0x9C#8,
    0xFF#8, 0x00#8, 0x00#8, 0x00#8, 0xFF#8]) =
    some [.ratio 0 1000 .ampereHour, .int 255 .percent, .ratio (-100) 100 .ampere,
      .ratio 0 100 .volt, .int (-20) .celsius, .int 235 .celsius] := by decide

/-- V-D25. -/
theorem test_battery_cell_voltages : values (.decodeBatteryCellVoltages [0x90#8, 0x01#8, 0x91#8,
    0x01#8, 0x92#8, 0x01#8, 0x93#8, 0x01#8, 0x94#8, 0x01#8, 0x95#8, 0x01#8, 0x96#8, 0x01#8, 0x97#8,
    0x01#8, 0x98#8, 0x01#8, 0x99#8, 0x01#8, 0xFF#8, 0xFF#8, 0xFF#8, 0xFF#8, 0xFF#8, 0xFF#8,
    0xFF#8]) =
    some ([400, 401, 402, 403, 404, 405, 406, 407, 408, 409].map fun v => .ratio v 100 .volt) := by
        decide

/-- V-D28. -/
theorem test_general_info : values (.decodeGeneralInfo [0x31#8, 0x33#8, 0x36#8, 0x37#8, 0x38#8,
    0x2F#8, 0x30#8, 0x30#8, 0x31#8, 0x31#8, 0x32#8, 0x32#8, 0x33#8, 0x33#8, 0x30#8, 0x30#8, 0x30#8,
    0x30#8, 0x30#8, 0x30#8, 0x5A#8, 0x02#8]) =
      some [.text [0x31#8, 0x33#8, 0x36#8, 0x37#8, 0x38#8, 0x2F#8, 0x30#8, 0x30#8, 0x31#8, 0x31#8,
          0x32#8, 0x32#8, 0x33#8, 0x33#8], .text [0x30#8, 0x30#8, 0x30#8, 0x30#8, 0x30#8, 0x30#8],
          .nibbles 2#4 5#4 10#4] ∧
    versionText 2#4 5#4 10#4 = [0x56#8, 0x32#8, 0x2E#8, 0x35#8, 0x2E#8, 0x61#8] := by decide

/-- V-D31. -/
theorem test_motor_info : values (.decodeMotorInfo [0xFF#8, 0xFF#8, 0xFF#8, 0xFF#8, 0xFF#8, 0xFF#8,
    0xFF#8, 0xFF#8, 0x64#8, 0x00#8, 0xFF#8, 0xFF#8, 0xFF#8, 0xFF#8, 0xFF#8, 0xFF#8, 0xFF#8, 0xFF#8,
    0xFF#8, 0xFF#8, 0xFF#8, 0xFF#8, 0x9C#8, 0xFF#8, 0xFF#8, 0xFF#8, 0xFF#8, 0xFF#8, 0xFF#8, 0xFF#8,
    0xFF#8, 0xFF#8]) =
    some [.int 100 .percent, .ratio (-1) 100 .kmPerHour, .ratio 65535 100 .kmPerHour,
      .ratio 4294967295 1000 .km, .int (-1) .metre, .int (-1) .second, .ratio (-100) 10 .celsius]
          := by
  decide

/-- V-D32. -/
theorem test_trip_info : values (.decodeTripInfo [0x2C#8, 0x01#8, 0x55#8, 0xAA#8, 0x00#8, 0x00#8,
    0x00#8, 0x00#8, 0xF1#8, 0xFF#8]) =
    some [.int 300 .second, .int 43605 .metre, .ratio (-15) 10 .celsius] := by decide

/-- V-D33, V-D34. -/
theorem test_supplementary : values (.decodeSupplementary [0x01#8, 0x00#8, 0x01#8, 0x00#8, 0x02#8,
    0x00#8]) =
      some [.int 1 .none, .bool true, .bool true] ∧
    values (.decodeSupplementary [0x00#8, 0x00#8, 0x02#8, 0x00#8, 0x01#8, 0x00#8]) =
      some [.int 0 .none, .bool false, .bool false] := by decide

/-- V-X02, V-X03, V-X04 at the port: a reserved opcode is rejected and the store is kept. -/
theorem test_step_rejects_reserved :
    answer (step (facing speedHead [.command [0xFF#8, 0x01#8]])) = some { status :=
                                                                            .rejectedBadOpcode } ∧
    storeAfter (step (facing speedHead [.command [0x06#8]])) = some speedHead := by decide

/-! ### A witness for each statement with hypotheses -/

/-- A store of one entry: the first byte of a frame. -/
def oneEntry : List Entry := [{ bytes := [0x55#8], age := 3 }]

/-- A parse whose status is not OK returns no frame. -/
theorem not_ok {B : List Byte} (h : (parse B).status ≠ .ok) : ∀ g, parse B ≠ .ok g := by
  intro g hg
  rw [hg] at h
  exact h rfl

theorem default_legal : Params.default.Legal := by decide

theorem oneEntry_sound : ∀ e ∈ oneEntry, e.Sound := by
  intro e he
  obtain rfl := List.mem_singleton.mp he
  rfl

theorem oneEntry_store_sound : StoreSound Params.default oneEntry where
  depth := by decide
  sound := oneEntry_sound
  nonempty := by decide
  bounded := by decide

/-- Any events at the port of a machine that stores the start of a frame: a sound machine. -/
theorem facing_sound (evs : List HostEvent) : (facing oneEntry evs).Sound :=
  ⟨default_legal, oneEntry_store_sound⟩

theorem witness_ResetEmptiesStoreAndKeepsConstants : ∃ (s : State) (rest : List HostEvent),
    s.params.Legal ∧ s.port = .reset :: rest ∧ s.pend ≠ [] :=
  ⟨facing oneEntry [.reset, .command [0x00#8]], _, default_legal, rfl, by decide⟩

theorem witness_ResetDuringCommandAbortsIt : ∃ (s : State) (cmd : List Byte) (rest : List
    HostEvent),
    s.params.Legal ∧ s.port = .resetDuring cmd :: rest ∧ s.pend ≠ [] :=
  ⟨facing oneEntry [.resetDuring [0x04#8, 0x01#8, 0x00#8, 0x55#8]], _, _, default_legal, rfl, by
      decide⟩

theorem witness_IdleMachineKeepsState : ∃ s : State, s.params.Legal ∧ s.port = [] ∧ s.pend ≠ [] :=
  ⟨facing oneEntry [], default_legal, rfl, by decide⟩

theorem witness_StepRunsDecodedInstruction : ∃ (s : State) (cmd : List Byte) (rest : List HostEvent)
    (i : Instr), s.params.Legal ∧ (∀ e ∈ s.pend, e.Sound) ∧ s.port = .command cmd :: rest ∧
    decode s.params cmd = .ok i :=
  ⟨facing oneEntry [.command [0x04#8, 0x01#8, 0x00#8, 0x55#8]], _, _, .push [0x55#8],
      default_legal, oneEntry_sound, rfl,
    by decide⟩

/-- The state of a rejected or accepted command. -/
theorem facing_command (cmd : List Byte) : ∃ (s : State) (rest : List HostEvent), s.params.Legal ∧
    (∀ e ∈ s.pend, e.Sound) ∧ s.port = .command cmd :: rest ∧ s.params = Params.default :=
  ⟨facing oneEntry [.command cmd], _, default_legal, oneEntry_sound, rfl, rfl⟩

/-- Each check of R85, at the boundary of its range: with `facing_command`, the hypotheses of
RejectedCommandAnswersOnly. -/
theorem witness_RejectedCommandAnswersOnly :
    rejection Params.default [] = some .rejectedMalformed ∧
    rejection Params.default [0x00#8] = some .rejectedBadOpcode ∧
    rejection Params.default [0x06#8] = some .rejectedBadOpcode ∧
    rejection Params.default [0xFF#8, 0x01#8] = some .rejectedBadOpcode ∧
    rejection Params.default [0x02#8, 0x22#8, 0x01#8, 0x34#8] = some .rejectedMalformed ∧
    rejection Params.default [0x01#8, 0x22#8, 0x01#8, 0x34#8, 0x02#8, 0x02#8] = some
        .rejectedMalformed ∧
    rejection Params.default ([0x02#8, 0x22#8, 0x01#8, 0x34#8, 0xFE#8] ++ ones 254) = some
        .errPayloadTooLong ∧
    rejection Params.default ([0x03#8, 0x05#8, 0x03#8] ++ ones 773) = some .rejectedTooLong ∧
    rejection Params.default ([0x04#8, 0x01#8, 0x02#8] ++ ones 513) = some .rejectedTooLong := by
  decide +kernel

/-- At the boundary of each check that it passes: with `facing_command`, the hypotheses of
AcceptedCommandRuns. -/
theorem witness_AcceptedCommandRuns :
    rejection Params.default ([0x01#8, 0x22#8, 0x01#8, 0x34#8, 0xFD#8] ++ ones 253) = none ∧
    rejection Params.default ([0x03#8, 0x04#8, 0x03#8] ++ ones 772) = none ∧
    rejection Params.default ([0x04#8, 0x00#8, 0x02#8] ++ ones 512) = none ∧
    rejection Params.default [0x04#8, 0x00#8, 0x00#8] = none ∧
    rejection Params.default ([0x05#8, 0x25#8, 0x34#8, 0xFF#8] ++ ones 255) = none := by
  decide +kernel

theorem witness_SoundMachineNeverStops : (∃ s : State, s.Sound ∧ s.port = [.command [0x06#8]]) ∧
    ∃ s : State, s.Sound ∧ s.port = [.reset] :=
  ⟨⟨_, facing_sound [.command [0x06#8]], rfl⟩, ⟨_, facing_sound [.reset], rfl⟩⟩

/-- A sound machine that buffers one more fragment. -/
theorem witness_StepKeepsSound : ∃ s t : State, s.Sound ∧ step s = .next t ∧ t.pend ≠ s.pend :=
  ⟨facing oneEntry [.command [0x04#8, 0x02#8, 0x00#8, 0x55#8, 0xAA#8]], _, facing_sound _, rfl, by
      decide⟩

theorem witness_OnlyPushAndResetWriteStore :
    (∃ s t : State, step s = .next t ∧ s.port.head? = some (.command [0x06#8])) ∧
    (∃ s t : State, step s = .next t ∧ s.port.head? = some (.command [0x04#8, 0x02#8, 0x00#8,
        0x55#8, 0xAA#8])) ∧
    (∃ s t : State, step s = .next t ∧ s.port.head? = some .reset) ∧
    ∃ s t : State, step s = .next t ∧ s.port.head? = some (.resetDuring [0x06#8]) :=
  ⟨⟨facing oneEntry [.command [0x06#8]], _, rfl, rfl⟩,
    ⟨facing oneEntry [.command [0x04#8, 0x02#8, 0x00#8, 0x55#8, 0xAA#8]], _, rfl, rfl⟩,
    ⟨facing oneEntry [.reset], _, rfl, rfl⟩, ⟨facing oneEntry [.resetDuring [0x06#8]], _, rfl, rfl⟩⟩

/-- A depth of 0, and two kinds with one key, are illegal; and a stored whole frame is unsound. -/
theorem witness_UnbuiltOrUnsoundMachineStops :
    ¬ Params.Legal { Params.default with pendDepth := 0 } ∧
    ¬ Params.Legal { Params.default with attrCode := { defaultAttrCode with speed := 0x25#8 } } ∧
    ∃ (s : State) (cmd : List Byte) (rest : List HostEvent), s.params.Legal ∧
      s.port = .command cmd :: rest ∧ ∃ e ∈ s.pend, ¬ e.Sound := by
  refine ⟨by decide, by decide, facing [{ bytes := [0x56#8], age := 0 }] [.command [0x06#8]], _, _,
    default_legal, rfl, _, List.mem_singleton.mpr rfl, ?_⟩
  unfold Entry.Sound
  decide

theorem witness_PendingReadIsChecked : (0 < oneEntry.length) ∧ oneEntry.length ≤ 1 := by decide

theorem witness_PureCommandIgnoresState : ∃ (i : Instr) (s u : State), isPush i = false ∧
    s.params = u.params ∧ s.pend ≠ u.pend :=
  ⟨.parse [0x55#8], withStore oneEntry, .reset, rfl, rfl, by decide⟩

theorem witness_DecodeOfEncodeIsIdentity : ∃ (p : Params) (i : Instr), p.Legal ∧
    i.wellFormed p = true :=
  ⟨Params.default, .encode 0x22#8 0x01#8 0x34#8 [0x55#8, 0xAA#8], default_legal, by decide⟩

theorem witness_EncodeOfDecodeIsIdentity : ∃ (p : Params) (cmd : List Byte) (i : Instr),
    decode p cmd = .ok i :=
  ⟨Params.default, [0x02#8, 0x20#8, 0x01#8, 0xB0#8, 0x01#8, 0x20#8], .readReq 0x20#8 0xB0#8 0x20#8,
      by decide⟩

theorem witness_KindRowsAgreeWithDecode : State.reset.params.Legal := default_legal

/-- The shortest and the longest payload, for the statements about the checksum and ENCODE. -/
theorem witness_payload_lengths : ([] : List Byte).length ≤ 253 ∧ (ones 253).length ≤ 253 ∧
    253 < (ones 254).length := by
  decide +kernel

theorem witness_ChecksumSeesOnlyTheSum : ∃ P Q : List Byte, P ≠ Q ∧ P.length = Q.length ∧
    payloadSum P = payloadSum Q ∧ P.Perm Q :=
  ⟨[0x02#8, 0x00#8], [0x00#8, 0x02#8], by decide, rfl, by decide, List.Perm.swap ..⟩

theorem witness_ChecksumSeesEverySingleBit : ∃ (P : List Byte) (b i : Nat), P.length ≤ 253 ∧ b < 8 ∧
    i < P.length := ⟨[0x02#8], 7, 0, by decide⟩

theorem witness_ParsedFrameIsEncoded : parse ([0x55#8, 0xAA#8, 0x03#8, 0x22#8, 0x01#8, 0x34#8,
    0x02#8, 0xA3#8, 0xFF#8, 0x55#8]) = .ok w1 := by decide

/-- Each clause of ParseStatusPriority at a boundary: V-P07, V-P04, V-P10, V-P09, V-P11, V-P01. -/
theorem witness_ParseStatusPriority :
    ¬ (([0x55#8, 0xAB#8, 0x03#8] : List Byte).take 2 <+: [0x55#8, 0xAA#8]) ∧
    (([0x55#8] : List Byte).take 2 <+: [0x55#8, 0xAA#8]) ∧
    (byteAt [0x55#8, 0xAA#8, 0x01#8, 0x22#8, 0x01#8, 0x34#8] 2).toNat < 2 ∧
    (let B : List Byte := [0x55#8, 0xAA#8, 0x03#8, 0x22#8, 0x01#8, 0x34#8, 0x02#8, 0xA3#8];
      6 ≤ B.length ∧ 2 ≤ (byteAt B 2).toNat ∧ B.length < 6 + (byteAt B 2).toNat) ∧
    (let B : List Byte := [0x55#8, 0xAA#8, 0x03#8, 0x22#8, 0x01#8, 0x34#8, 0x02#8, 0xA3#8, 0xFE#8];
      6 + (byteAt B 2).toNat ≤ B.length ∧ (byteAt B 7).toNat + 256 * (byteAt B 8).toNat ≠
        (checksum (byteAt B 3) (byteAt B 4) (byteAt B 5) [0x02#8]).toNat) ∧
    (let B : List Byte := [0x55#8, 0xAA#8, 0x03#8, 0x22#8, 0x01#8, 0x34#8, 0x02#8, 0xA3#8, 0xFF#8];
      6 + (byteAt B 2).toNat ≤ B.length ∧ (byteAt B 7).toNat + 256 * (byteAt B 8).toNat =
        (checksum (byteAt B 3) (byteAt B 4) (byteAt B 5) [0x02#8]).toNat) := by decide

/-- The longest DISJOINTED sequence has 260 bytes. -/
theorem witness_DisjointedIsShort : parse ([0x55#8, 0xAA#8, 0xFF#8] ++ ones 257) = .disjointed := by
  decide +kernel

theorem witness_FramePrefixIsDisjointed : ∃ (P : List Byte) (k : Nat), P.length ≤ 253 ∧
    k < P.length + 8 := ⟨ones 253, 260, by decide +kernel⟩

/-- Each clause of SingleBitCorruptionStatus, on the frames of V-P01 and V-P16: the header bytes,
    the
last byte, and a length byte that grows, falls below 2, or falls to a wrong or a matching frame. -/
theorem witness_SingleBitCorruptionStatus :
    let F := encodeFrame 0x22#8 0x01#8 0x34#8 [0x02#8]
    let H := encodeFrame 0x23#8 0x01#8 0xB5#8 [0x24#8]
    (F.length = 9 ∧ 3 < (byteAt (flipBit F 2 2) 2).toNat ∧ (byteAt (flipBit F 2 1) 2).toNat < 2) ∧
    ((byteAt (flipBit F 2 0) 2).toNat = 2 ∧ le16 F 6 ≠ checksum 0x22#8 0x01#8 0x34#8 []) ∧
    ((byteAt (flipBit H 2 0) 2).toNat = 2 ∧ le16 H 6 = checksum 0x23#8 0x01#8 0xB5#8 []) := by
        decide

theorem witness_ParseCommandResult :
    (∃ (B : List Byte) (s : State) (f : Frame), B.length ≤ s.params.parseMax ∧ parse B = .ok f) ∧
    (∃ (B : List Byte) (s : State), B.length ≤ s.params.parseMax ∧ ∀ f, parse B ≠ .ok f) ∧
    ∃ (B : List Byte) (s : State), s.params.parseMax < B.length :=
  ⟨⟨[0x55#8, 0xAA#8, 0x03#8, 0x22#8, 0x01#8, 0x34#8, 0x02#8, 0xA3#8, 0xFF#8], .reset, w1, by
      decide, by decide⟩,
    ⟨[0x55#8], .reset, by decide, not_ok (by decide)⟩, ⟨ones 773, .reset, by decide +kernel⟩⟩

theorem witness_PushIgnoresEmptyAndTooLong : State.reset.params.chunkMax < (ones 513).length := by
  decide +kernel

theorem witness_PushDispatchesFrame : ∃ (C : List Byte) (s : State) (f : Frame),
    C.length ≤ s.params.chunkMax ∧ parse C = .ok f ∧ s.pend ≠ [] :=
  ⟨[0x55#8, 0xAA#8, 0x03#8, 0x22#8, 0x01#8, 0x34#8, 0x02#8, 0xA3#8, 0xFF#8], withStore oneEntry,
      w1, by decide, by decide, by decide⟩

theorem witness_PushDiscardsCorruptFrame : ∃ (C : List Byte) (s : State),
    C.length ≤ s.params.chunkMax ∧ parse C = .invalidChecksum ∧ s.pend ≠ [] :=
  ⟨[0x55#8, 0xAA#8, 0x03#8, 0x22#8, 0x01#8, 0x34#8, 0x02#8, 0xA3#8, 0xFE#8], withStore oneEntry, by
      decide, by decide, by decide⟩

/-- V-R06: a full store, and one entry less. -/
theorem witness_PushBuffersFrameStart :
    (∃ (C : List Byte) (s : State), 1 ≤ C.length ∧ C.length ≤ s.params.chunkMax ∧
      parse C = .disjointed ∧ (survivors s.params s.pend).length = s.params.pendDepth) ∧
    ∃ (C : List Byte) (s : State), 1 ≤ C.length ∧ C.length ≤ s.params.chunkMax ∧
      parse C = .disjointed ∧ (survivors s.params s.pend).length + 1 = s.params.pendDepth :=
  ⟨⟨[0x55#8], depthTwo, by decide, by decide, by decide, rfl⟩,
    ⟨[0x55#8], built { Params.default with pendDepth := 2 } oneEntry, by decide, by decide, by
        decide, rfl⟩⟩

/-- V-R16, with a first entry that the chunk does not complete. -/
theorem witness_PushCombinesOldestCompleted : ∃ (C : List Byte) (s : State) (i : Nat) (f : Frame),
    C.length ≤ s.params.chunkMax ∧ parse C = .invalidHeader ∧
    ∃ h : i < (survivors s.params s.pend).length,
      parse ((survivors s.params s.pend)[i].bytes ++ C) = .ok f ∧
      ∀ j (hj : j < i), ∀ g,
        parse (((survivors s.params s.pend)[j]'(Nat.lt_trans hj h)).bytes ++ C) ≠ .ok g := by
  refine ⟨[0x9C#8, 0xFF#8, 0x87#8, 0xFD#8], withStore speedHead, 1, _, by decide, by decide, by
      decide, rfl, ?_⟩
  intro j hj
  match j, hj with
  | 0, _ => exact not_ok (B := [0x55#8, 0xAA#8, 0x04#8, 0x25#8, 0x01#8, 0x34#8, 0x9C#8, 0xFF#8,
      0x87#8, 0xFD#8]) (by decide)

/-- The first byte of a frame, and GENERAL_INFO's first six. -/
def twoHeads : List Entry :=
  [{ bytes := [0x55#8], age := 1 },
   { bytes := [0x55#8, 0xAA#8, 0x18#8, 0x23#8, 0x01#8, 0x10#8], age := 0 }]

/-- V-R10, its second chunk: the entry is extended, and one that the chunk does not extend is
    older. -/
theorem witness_PushAccumulatesOldestExtended : ∃ (C : List Byte) (s : State) (i : Nat),
    C.length ≤ s.params.chunkMax ∧ parse C = .invalidHeader ∧ s.params.accumulate = true ∧
    (∀ e ∈ survivors s.params s.pend, ∀ g, parse (e.bytes ++ C) ≠ .ok g) ∧
    ∃ h : i < (survivors s.params s.pend).length,
      parse ((survivors s.params s.pend)[i].bytes ++ C) = .disjointed ∧
      ∀ j (hj : j < i),
        parse (((survivors s.params s.pend)[j]'(Nat.lt_trans hj h)).bytes ++ C) ≠ .disjointed := by
  refine ⟨[0x30#8, 0x30#8, 0x31#8], built { Params.default with accumulate := true } twoHeads, 1,
      by decide, by decide, by decide, ?_, by decide, by decide, ?_⟩
  · intro e he
    replace he : e ∈ twoHeads := he
    rcases List.mem_cons.mp he with rfl | he
    · exact not_ok (by decide)
    · obtain rfl := List.mem_singleton.mp he
      exact not_ok (by decide)
  · intro j hj
    match j, hj with
    | 0, _ => exact show parse [0x55#8, 0x30#8, 0x30#8, 0x31#8] ≠ .disjointed by decide

/-- V-R04 beside a stored entry, with accumulation off and on. -/
theorem witness_PushDiscardsUnmatched : ∀ acc : Bool, ∃ (C : List Byte) (s : State),
    s.params.accumulate = acc ∧ C.length ≤ s.params.chunkMax ∧ parse C = .invalidHeader ∧
    s.pend ≠ [] ∧ (∀ e ∈ survivors s.params s.pend, ∀ g, parse (e.bytes ++ C) ≠ .ok g) ∧
    ∀ e ∈ survivors s.params s.pend, parse (e.bytes ++ C) ≠ .disjointed := by
  intro acc
  refine ⟨[0x34#8, 0x02#8, 0xA3#8, 0xFF#8], built { Params.default with accumulate := acc }
      oneEntry, rfl, by cases acc <;> decide, by decide, by cases acc <;> decide, ?_, ?_⟩
  · intro e he
    obtain rfl := List.mem_singleton.mp (mem_of_mem_survivors he)
    exact not_ok (by decide)
  · intro e he
    obtain rfl := List.mem_singleton.mp (mem_of_mem_survivors he)
    decide

theorem witness_PushCountsFitBytes : ∃ s : State, s.Sound ∧ s.pend ≠ [] :=
  ⟨facing oneEntry [], facing_sound [], by decide⟩

/-- A store of one entry: the header of a frame. -/
def twoBytes : List Entry := [{ bytes := [0x55#8, 0xAA#8], age := 3 }]

/-- The frame of W1 split after its first byte, in the middle, and before its last, beside a stored
entry that the tail does not complete. -/
theorem witness_TwoFragmentsReassemble : ∃ (s : State) (F : List Byte) (f : Frame),
    s.params.Legal ∧ parse F = .ok f ∧ f.rawBytes = F ∧ F.length ≤ s.params.chunkMax ∧ s.pend ≠ [] ∧
    ∀ k ∈ [1, 4, 8], 0 < k ∧ k < F.length ∧ k ≤ s.params.chunkMax ∧
      F.length - k ≤ s.params.chunkMax ∧ parse (F.drop k) = .invalidHeader ∧
      ∀ e ∈ s.pend, ∀ g, parse (e.bytes ++ F.drop k) ≠ .ok g := by
  refine ⟨withStore twoBytes, [0x55#8, 0xAA#8, 0x03#8, 0x22#8, 0x01#8, 0x34#8, 0x02#8, 0xA3#8,
      0xFF#8], w1, default_legal, by decide, rfl, by decide, by decide, ?_⟩
  intro k hk
  simp only [List.mem_cons, List.not_mem_nil, or_false] at hk
  rcases hk with rfl | rfl | rfl <;>
  · refine ⟨by decide, by decide, by decide, by decide, by decide, fun e he => ?_⟩
    obtain rfl := List.mem_singleton.mp he
    exact not_ok (by decide)

/-- Splits of V-E11's frame: one whose tail starts `55 AA`, and one whose tail does not. -/
theorem witness_SplitTailHeaderProviso : ∃ (F : List Byte) (f : Frame), parse F = .ok f ∧
    f.rawBytes = F ∧ parse (F.drop 6) ≠ .invalidHeader ∧ parse (F.drop 5) = .invalidHeader ∧
    6 < F.length :=
  ⟨[0x55#8, 0xAA#8, 0x04#8, 0x20#8, 0x01#8, 0x34#8, 0x55#8, 0xAA#8, 0xA7#8, 0xFE#8], e11, by decide⟩

/-- The frame of W1 in three chunks, with accumulation off and on. -/
theorem witness_ThreeFragments : ∀ acc : Bool, ∃ (s : State) (A B C : List Byte) (f : Frame),
    s.params.accumulate = acc ∧ s.params.Legal ∧ s.pend = [] ∧ A.length ≤ s.params.chunkMax ∧
    B.length ≤ s.params.chunkMax ∧ C.length ≤ s.params.chunkMax ∧ A ≠ [] ∧ B ≠ [] ∧ C ≠ [] ∧
    parse (A ++ B ++ C) = .ok f ∧ f.rawBytes = A ++ B ++ C ∧ parse B = .invalidHeader ∧
    parse C = .invalidHeader ∧ (∀ g, parse (A ++ C) ≠ .ok g) ∧ s.params.pendMaxAge ≠ 1 := by
  intro acc
  refine ⟨built { Params.default with accumulate := acc } [], [0x55#8, 0xAA#8, 0x03#8, 0x22#8],
      [0x01#8, 0x34#8], [0x02#8, 0xA3#8, 0xFF#8], w1, rfl, default_legal, rfl, by cases acc <;>
      decide, by cases acc <;> decide, by cases acc <;> decide, by decide, by decide, by decide, by
      decide, rfl, by decide, by decide, not_ok (by decide), by cases acc <;> decide⟩

theorem witness_LookupFindsTheUniqueKind : ∃ (p : Params) (d a : Byte) (k : AttrKind), p.Legal ∧
    lookup p d a = some k ∧ lookup p 0x20#8 a = none :=
  ⟨Params.default, 0x25#8, 0x34#8, .batteryVoltage, default_legal, by decide⟩

/-- An unknown key (V-D35), and a known one with a wrong (V-D38) and a right (V-D16) length. -/
theorem witness_DecodeCommandOutcomes : lookup Params.default 0x23#8 0x34#8 = none ∧
    lookup Params.default 0x25#8 0x34#8 = some .batteryVoltage ∧
    ([0x88#8, 0x13#8, 0x00#8] : List Byte).length ≠ payloadSize .batteryVoltage ∧
    ([0x88#8, 0x13#8] : List Byte).length = payloadSize .batteryVoltage := by decide

/-- V-D24 and V-D25: payloads that differ in the reserved tail alone. -/
theorem witness_ReservedBytesDoNotMatter : ∃ P Q : List Byte, P ≠ Q ∧ P.length = Q.length ∧
    P.length = payloadSize .batteryCellVoltages ∧
    ∀ i, reservedOffset .batteryCellVoltages i = false → byteAt P i = byteAt Q i := by
  refine ⟨List.replicate 20 1#8 ++ List.replicate 7 0#8,
    List.replicate 20 1#8 ++ List.replicate 7 255#8, by decide, by decide, by decide, ?_⟩
  intro i h
  rcases Nat.lt_or_ge i 27 with hi | hi
  · interval_cases i <;> first | rfl | exact absurd h (by decide)
  · rw [byteAt, byteAt, List.getD_eq_default _ _ (by simpa using hi),
      List.getD_eq_default _ _ (by simpa using hi)]

/-- The other lengths the rows of the kinds answer LENGTH_MISMATCH for (V-D37, V-D38). -/
theorem witness_KindRow : ([] : List Byte).length ≠ 2 ∧ ([0x88#8, 0x13#8, 0x00#8] : List
    Byte).length ≠ 2 := by
  decide

theorem witness_GeneralInfoDecodes : ∃ serial pin : List Byte, serial.length = 14 ∧
    pin.length = 6 := ⟨ones 14, ones 6, by decide⟩

theorem witness_MotorInfoDecodes : ∃ head tail : List Byte, head.length = 8 ∧ tail.length = 8 :=
  ⟨ones 8, ones 8, by decide⟩

theorem witness_CellVoltagesDecode : (ones 27).length = 27 := by decide

end Sys2Proof.Tests
end

section
/-! PROOFS. The statements about the state: what each step does to the parameters and to the pending
store, the machine invariant, and the two facts about parse that the store rests on (10_state.md). -/

namespace Sys2Proof.Machine

/-! ### Parsing: the bound on an incomplete frame, and the bytes of a complete one -/

/-- A length byte is at most 255, so an incomplete frame has at most 6 + 255 - 1 bytes (R23, R66). -/
theorem length_le_of_parse_disjointed {B : List Byte} (h : parse B = .disjointed) :
    B.length ≤ 260 := by
  obtain ⟨-, hn | ⟨-, hT⟩⟩ := (parse_disjointed_iff B).mp h
  · omega
  · have := (byteAt B 2).isLt
    omega

/-- Settles O30. -/
theorem disjointedIsShort : Obligations.DisjointedIsShort :=
  fun _ => length_le_of_parse_disjointed

@[simp] theorem lowByte_le16Bytes (lo hi : Byte) : lowByte (le16Bytes lo hi) = lo := by
  apply BitVec.eq_of_toNat_eq
  rw [lowByte_toNat, le16Bytes_toNat]
  omega

@[simp] theorem highByte_le16Bytes (lo hi : Byte) : highByte (le16Bytes lo hi) = hi := by
  apply BitVec.eq_of_toNat_eq
  rw [highByte_toNat, le16Bytes_toNat]
  omega

@[simp] theorem countByte_toNat_self (b : Byte) : countByte b.toNat = b := BitVec.ofNat_toNat _ b

@[simp] theorem le16_cons_succ (b : Byte) (B : List Byte) (o : Nat) :
    le16 (b :: B) (o + 1) = le16 B o := by simp [le16]

/-- Two bytes of a sequence are the low and the high byte of the `u16` read there (R11). -/
theorem take_add_two_eq_le16 {B : List Byte} {n : Nat} (h : n + 2 ≤ B.length) :
    B.take (n + 2) = B.take n ++ [lowByte (le16 B n), highByte (le16 B n)] := by
  rw [le16, lowByte_le16Bytes, highByte_le16Bytes, byteAt_eq_getElem (by omega : n < B.length),
    byteAt_eq_getElem (by omega : n + 1 < B.length), ← List.take_append_getElem (by omega),
    ← List.take_append_getElem (by omega : n < B.length), List.append_assoc]
  rfl

/-- A sequence that passes the header check and holds a header begins with the header's bytes (R41). -/
theorem exists_eq_header_append {B : List Byte} (hm : headerMismatch B = false)
    (hn : 6 ≤ B.length) : ∃ n d rw a R, B = headerLow :: headerHigh :: n :: d :: rw :: a :: R := by
  match B, hn with
  | b0 :: b1 :: n :: d :: rw :: a :: R, _ =>
    obtain ⟨rfl, rfl⟩ : b0 = headerLow ∧ b1 = headerHigh := by simpa [headerMismatch] using hm
    exact ⟨n, d, rw, a, R, rfl⟩

/-- A verified sequence starts with the frame its fields encode to, and the payload has the length its
length byte declares (R125, R126). -/
theorem parse_ok_encodes {B : List Byte} {f : Frame} (h : parse B = .ok f) :
    f.payload.length + 2 = (byteAt B 2).toNat ∧
    f.rawBytes = encodeFrame f.direction f.readWrite f.attrCode f.payload ∧
    f.rawBytes = B.take (f.payload.length + 8) := by
  obtain ⟨hm, hL, hn, hc⟩ := (parse_ok_iff B f).mp h
  obtain ⟨n, d, rw, a, R, rfl⟩ := exists_eq_header_append hm (by omega)
  change 2 ≤ n.toNat at hL
  change 6 + n.toNat ≤ R.length + 6 at hn
  obtain ⟨N, hN⟩ : ∃ N, n.toNat = N + 2 := ⟨n.toNat - 2, by omega⟩
  have hR : N + 2 ≤ R.length := by omega
  change parseComplete _ (n.toNat - 2) = _ at hc
  rw [hN, Nat.add_sub_cancel, parseComplete_ok_iff, headerLength, Nat.add_comm 6 N] at hc
  obtain ⟨hsum, rfl⟩ := hc
  have hsum : le16 R N = checksum d rw a (R.take N) := by simpa [slice] using hsum
  have hcount : countByte (N + 2) = n := by rw [← hN, countByte_toNat_self]
  have hlen : min N R.length = N := Nat.min_eq_left (by omega)
  simp [slice, encodeFrame, hN, hlen, hcount, ← hsum, take_add_two_eq_le16 hR]

/-- Settles O27. -/
theorem parsedFrameIsEncoded : Obligations.ParsedFrameIsEncoded := by
  intro B f h
  obtain ⟨hlen, henc, hraw⟩ := parse_ok_encodes h
  have := (byteAt B 2).isLt
  exact ⟨by omega, henc, B.drop (f.payload.length + 8), by rw [hraw, List.take_append_drop]⟩

/-! ### The invariant of the store under each operation on it -/

/-- The bound of 260 bytes follows from the rest of the invariant, so an operation on the store need
not show it (R23). -/
theorem StoreSound.of_entries {p : Params} {es : List Entry} (hd : es.length ≤ p.pendDepth)
    (he : ∀ e ∈ es, e.Sound ∧ 1 ≤ e.bytes.length) : StoreSound p es where
  depth := hd
  sound e h := (he e h).1
  nonempty e h := (he e h).2
  bounded e h := length_le_of_parse_disjointed (he e h).1

theorem StoreSound.entry {p : Params} {es : List Entry} (h : StoreSound p es) {e : Entry}
    (he : e ∈ es) : e.Sound ∧ 1 ≤ e.bytes.length := ⟨h.sound e he, h.nonempty e he⟩

theorem StoreSound.empty (p : Params) : StoreSound p [] := .of_entries (Nat.zero_le _) (by simp)

/-- Expiry, eviction and removal keep the invariant (R141, R145, R148). -/
theorem StoreSound.sublist {p : Params} {es es' : List Entry} (h : StoreSound p es)
    (hs : es'.Sublist es) : StoreSound p es' :=
  .of_entries (hs.length_le.trans h.depth) fun _ he => h.entry (hs.subset he)

/-- Ageing keeps the invariant: it changes no bytes (R151). -/
theorem StoreSound.aged {p : Params} {es : List Entry} (h : StoreSound p es) :
    StoreSound p (ageAll es) := by
  refine .of_entries (by simpa using h.depth) fun e he => ?_
  obtain ⟨e', he', rfl⟩ := exists_of_mem_ageAll he
  exact h.entry (e := e') he'

theorem unexpired_sublist (p : Params) (es : List Entry) : (unexpired p es).Sublist es :=
  List.filter_sublist

theorem evictIfFull_sublist (p : Params) (es : List Entry) : (evictIfFull p es).Sublist es := by
  unfold evictIfFull
  split
  · exact List.drop_sublist 1 es
  · exact List.Sublist.refl es

/-- Eviction makes room for one entry (R145). -/
theorem evictIfFull_length_lt {p : Params} {es : List Entry} (hp : 1 ≤ p.pendDepth)
    (hd : es.length ≤ p.pendDepth) : (evictIfFull p es).length < p.pendDepth := by
  unfold evictIfFull
  split
  · rw [List.length_drop]
    omega
  · omega

/-- Buffering a frame start where there is room keeps the invariant (R145). -/
theorem StoreSound.append_chunk {p : Params} {es : List Entry} {C : List Byte}
    (h : StoreSound p es) (hroom : es.length < p.pendDepth) (hC : parse C = .disjointed)
    (hne : C ≠ []) : StoreSound p (es ++ [{ bytes := C, age := 0 }]) := by
  refine .of_entries (by simpa using hroom) fun e he => ?_
  rcases List.mem_append.mp he with he | he
  · exact h.entry he
  · obtain rfl := List.mem_singleton.mp he
    exact ⟨hC, List.length_pos_of_ne_nil hne⟩

@[simp] theorem growAt_length (C : List Byte) (es : List Entry) (i : Nat) :
    (growAt C es i).length = es.length := List.length_modify ..

/-- An entry of a store after accumulation was there before, or is the one that grew (R149). -/
theorem mem_of_mem_growAt {C : List Byte} {es : List Entry} {i : Nat} {e : Entry}
    (hi : i < es.length) (he : e ∈ growAt C es i) :
    e ∈ es ∨ e = { bytes := es[i].bytes ++ C, age := 0 } := by
  rw [growAt, List.modify_eq_take_cons_drop hi, List.mem_append, List.mem_cons] at he
  rcases he with he | he | he
  · exact .inl (List.mem_of_mem_take he)
  · exact .inr he
  · exact .inl (List.mem_of_mem_drop he)

/-- Accumulation keeps the invariant when the grown entry still parses DISJOINTED (R149). -/
theorem StoreSound.grown {p : Params} {es : List Entry} {C : List Byte} {i : Nat}
    (h : StoreSound p es) (hi : i < es.length) (hC : parse (es[i].bytes ++ C) = .disjointed) :
    StoreSound p (growAt C es i) := by
  refine .of_entries (by simpa using h.depth) fun e he => ?_
  rcases mem_of_mem_growAt hi he with he | rfl
  · exact h.entry he
  · have := h.nonempty es[i] (List.getElem_mem hi)
    exact ⟨hC, by rw [List.length_append]; omega⟩

/-- A PUSH that is neither too long nor empty keeps the invariant of the store (R153). -/
theorem StoreSound.pushed {p : Params} {es : List Entry} {C : List Byte} (h : StoreSound p es)
    (hp : 1 ≤ p.pendDepth) (hne : C ≠ []) : StoreSound p (pushChunk p es C).1 := by
  have hu : StoreSound p (unexpired p es) := h.sublist (unexpired_sublist p es)
  rcases pushChunk_store_cases p es C with e | ⟨hC, e⟩ | ⟨i, f, -, e⟩ | ⟨i, hext, e⟩ <;> rw [e]
  · exact hu.aged
  · exact (hu.sublist (evictIfFull_sublist p _)).aged.append_chunk
      (by simpa using evictIfFull_length_lt hp hu.depth) hC hne
  · exact (hu.sublist (List.eraseIdx_sublist ..)).aged
  · obtain ⟨hi, hC, -⟩ := firstExtended_eq_some.mp hext
    exact hu.aged.grown (by simpa using hi) (by simpa [ageAll_eq_map] using hC)

/-! ### What the commands do to the store -/

theorem exists_eq_push {i : Instr} (hi : isPush i = true) : ∃ C, i = .push C := by
  cases i with
  | push C => exact ⟨C, rfl⟩
  | _ => cases hi

/-- A command other than PUSH only returns a response, and the parameters alone decide it (R46). -/
theorem exec_eq_respond {i : Instr} (hi : isPush i = false) (p : Params) :
    ∃ r, ∀ s : State, s.params = p → exec i s = .next (s.respond r) := by
  cases i with
  | push C => cases hi
  | parse B =>
    by_cases hl : p.parseMax < B.length
    · exact ⟨.alone .rejectedTooLong, fun s hs => if_pos (hs ▸ hl)⟩
    · exact ⟨parseResponse (parse B), fun s hs => if_neg (hs ▸ hl)⟩
  | decode d a P => exact ⟨decodeResponse (decodePayload p d a P), fun s hs => hs ▸ rfl⟩
  | _ => exact ⟨_, fun s _ => rfl⟩

/-- A PUSH only returns a response, or works on the store with a chunk that is not empty (R150). -/
theorem execPush_cases (C : List Byte) (s : State) :
    (∃ r, execPush C s = .next (s.respond r)) ∨ (C ≠ [] ∧ ∃ r,
      execPush C s = .next ((s.setPend (pushChunk s.params s.pend C).1).respond r)) := by
  by_cases hl : s.params.chunkMax < C.length
  · exact .inl ⟨_, if_pos hl⟩
  · by_cases hne : C = []
    · exact .inl ⟨{ status := .ignoredEmpty, evicted := some 0, expired := some 0 },
        by simp [execPush, hne]⟩
    · exact .inr ⟨hne, _, execPush_of_chunk (Nat.not_lt.mp hl) hne⟩

/-- What an instruction can do to the parameters and the store (R26, R46, R235). -/
theorem exec_store_cases {i : Instr} {s t : State} (h : exec i s = .next t) :
    t.params = s.params ∧ (t.pend = s.pend ∨
      ∃ C, i = .push C ∧ C ≠ [] ∧ t.pend = (pushChunk s.params s.pend C).1) := by
  cases hi : isPush i with
  | false =>
    obtain ⟨r, hr⟩ := exec_eq_respond hi s.params
    cases (hr s rfl).symm.trans h
    exact ⟨rfl, .inl rfl⟩
  | true =>
    obtain ⟨C, rfl⟩ := exists_eq_push hi
    change execPush C s = .next t at h
    rcases execPush_cases C s with ⟨r, e⟩ | ⟨hne, r, e⟩ <;> cases e.symm.trans h
    · exact ⟨rfl, .inl rfl⟩
    · exact ⟨rfl, .inr ⟨C, rfl, hne, rfl⟩⟩

/-! ### PUSH is spelled by opcode 0x04 alone -/

@[simp] theorem isPush_spellEncode (d rw a : Byte) (P : List Byte) :
    isPush (spellEncode d rw a P) = false := by
  unfold spellEncode
  split_ifs <;> rfl

@[simp] theorem isPush_decodeInstr (k : AttrKind) (P : List Byte) :
    isPush (k.decodeInstr P) = false := by cases k <;> rfl

@[simp] theorem isPush_spellDecode (p : Params) (d a : Byte) (P : List Byte) :
    isPush (spellDecode p d a P) = false := by
  unfold spellDecode
  cases lookup p d a with
  | none => rfl
  | some k => exact isPush_decodeInstr k P

@[simp] theorem isPush_decodeReserved (op : Byte) (rest : List Byte) :
    isPush (decodeReserved op rest) = false := by
  unfold decodeReserved
  split_ifs <;> rfl

/-- Only a command with opcode 0x04 decodes to PUSH (R81). -/
theorem opcode_of_decode_push {p : Params} {cmd : List Byte} {i : Instr}
    (h : decode p cmd = .ok i) (hi : isPush i = true) : ∃ rest, cmd = 0x04#8 :: rest := by
  cases cmd with
  | nil => simp at h
  | cons op rest =>
    rcases opcode_cases op with rfl | rfl | rfl | rfl | rfl | ⟨h1, h2, h3, h4, h5⟩
    · obtain ⟨d, rw, a, n, P, -, -, rfl⟩ := decodeFields_ok_iff.mp h
      cases hi
    · obtain ⟨d, rw, a, n, P, -, -, rfl⟩ := decodeFields_ok_iff.mp h
      simp at hi
    · obtain ⟨lo, hib, B, -, -, rfl⟩ := decodeStream_ok_iff.mp h
      cases hi
    · exact ⟨rest, rfl⟩
    · obtain ⟨d, a, n, P, -, -, rfl⟩ := decodeDfields_ok_iff.mp h
      simp at hi
    · cases (decode_reserved p rest h1 h2 h3 h4 h5).symm.trans h
      simp at hi

/-! ### What a step does to the parameters and the store -/

/-- A step keeps the parameters. It keeps the store, or a reset empties it, or a PUSH works on it with
a chunk that is not empty (R21, R22, R26, R235). -/
theorem step_store_cases {s t : State} (h : step s = .next t) : t.params = s.params ∧
    (t.pend = s.pend ∨
     ((s.port.head? = some .reset ∨ ∃ cmd, s.port.head? = some (.resetDuring cmd)) ∧
       t.pend = []) ∨
     ∃ cmd C, s.port.head? = some (.command (0x04#8 :: cmd)) ∧ C ≠ [] ∧
       t.pend = (pushChunk s.params s.pend C).1) := by
  obtain ⟨-, ⟨-, rfl⟩ | ⟨rest, hp, rfl⟩ | ⟨cmd, rest, hp, -, ⟨err, -, rfl⟩ | ⟨i, hd, he⟩⟩⟩ :=
    step_next_cases h
  · exact ⟨rfl, .inl rfl⟩
  · refine ⟨rfl, .inr (.inl ⟨?_, rfl⟩)⟩
    rcases hp with hp | ⟨cmd, hp⟩
    · exact .inl (by rw [hp, List.head?_cons])
    · exact .inr ⟨cmd, by rw [hp, List.head?_cons]⟩
  · exact ⟨rfl, .inl rfl⟩
  · obtain ⟨hparams, hpend | ⟨C, rfl, hne, hpend⟩⟩ := exec_store_cases he
    · exact ⟨hparams, .inl hpend⟩
    · obtain ⟨cmd, rfl⟩ := opcode_of_decode_push hd rfl
      exact ⟨hparams, .inr (.inr ⟨cmd, C, by rw [hp, List.head?_cons], hne, hpend⟩)⟩

/-- Settles O8: the three things a step can do to the store each keep its invariant. -/
theorem stepKeepsSound : Obligations.StepKeepsSound := by
  intro s t hs h
  obtain ⟨hparams, hstore⟩ := step_store_cases h
  refine ⟨hparams ▸ hs.legal, hparams ▸ ?_⟩
  obtain ⟨-, -, ⟨hdepth, -⟩, -⟩ := hs.legal
  rcases hstore with e | ⟨-, e⟩ | ⟨cmd, C, -, hne, e⟩ <;> rw [e]
  · exact hs.store
  · exact .empty _
  · exact hs.store.pushed hdepth hne

/-- Settles O10. -/
theorem onlyPushAndResetWriteStore : Obligations.OnlyPushAndResetWriteStore := by
  intro s t h
  obtain ⟨hparams, hpend | ⟨hreset, -⟩ | ⟨cmd, C, hpush, -⟩⟩ := step_store_cases h
  · exact ⟨hparams, .inl hpend⟩
  · exact ⟨hparams, .inr (.inr hreset)⟩
  · exact ⟨hparams, .inr (.inl ⟨cmd, hpush⟩)⟩

/-! ### Reset and the checked reader -/

/-- Below `PEND_COUNT` the reader answers the entry (R22). -/
theorem State.readPend_of_lt {s : State} {i : Nat} (h : i < s.pend.length) :
    s.readPend i = .ok s.pend[i] := by simp [State.readPend, h]

/-- At or past `PEND_COUNT` the reader faults (R22, M1). -/
theorem State.readPend_of_le {s : State} {i : Nat} (h : s.pend.length ≤ i) :
    s.readPend i = .error (.noPendingEntry i) := by simp [State.readPend, h]

/-- Settles O12. -/
theorem pendingReadIsChecked : Obligations.PendingReadIsChecked :=
  fun _ _ => ⟨State.readPend_of_lt, State.readPend_of_le⟩

/-- Settles O9. The default parameters are closed, so their legality is evaluated. -/
theorem resetIsSound : Obligations.ResetIsSound where
  legal := by decide
  store := .empty _

/-- Settles O1. -/
theorem resetEmptiesStoreAndKeepsConstants : Obligations.ResetEmptiesStoreAndKeepsConstants :=
  ⟨⟨rfl, fun i => State.readPend_of_le (Nat.zero_le i)⟩, fun _ _ hl hp => step_event hl hp⟩

end Sys2Proof.Machine
end

section
/-! PROOFS. The statement about the commands and the memory (20_memory.md). -/

namespace Sys2Proof.Machine

/-- Settles O13: the response that the parameters of `u` fix serves both states, since `s` has the same
ones. -/
theorem pureCommandIgnoresState : Obligations.PureCommandIgnoresState := by
  intro i s u hi hparams
  obtain ⟨r, hr⟩ := exec_eq_respond hi u.params
  exact ⟨r, hr s hparams, hr u rfl⟩

end Sys2Proof.Machine
end

section
/-! PROOFS. The statements about the encoding: the decode table, decode against encode, the rejections
of R85, and the responses of the commands (30_encoding.md). -/

namespace Sys2Proof.Machine

/-! ### The decode table -/

/-- Under legal maps the lookup of a kind's own key finds that kind (R72, R73). -/
theorem lookup_eq_some_iff {p : Params} (h : p.Legal) {d a : Byte} {k : AttrKind} :
    lookup p d a = some k ↔ p.key k = (d, a) := by
  refine ⟨key_of_lookup, fun hk => ?_⟩
  cases hj : lookup p d a with
  | none => exact absurd hk (lookup_eq_none.mp hj k)
  | some j => rw [key_inj h ((key_of_lookup hj).trans hk.symm)]

theorem lookup_key {p : Params} (h : p.Legal) (k : AttrKind) :
    lookup p (p.attrDir.get k) (p.attrCode.get k) = some k := (lookup_eq_some_iff h).mpr rfl

/-- Settles O47: a direction other than the two of R72 is the direction of no key. -/
theorem lookupFindsTheUniqueKind : Obligations.LookupFindsTheUniqueKind := by
  refine fun p h => ⟨fun d a k => ?_, fun d a => ?_, fun d a h23 h25 => ?_⟩
  · rw [lookup_eq_some_iff h, Params.key, Prod.mk.injEq]
  · simp only [lookup_eq_none, Params.key, ne_eq, Prod.mk.injEq]
  · rw [lookup_eq_none]
    rintro k hk
    obtain ⟨rfl, -⟩ := Prod.mk.inj hk
    obtain ⟨-, -, -, -, hdir, -⟩ := h
    rcases hdir k (AttrKind.mem_all k) with e | e
    · exact h23 e
    · exact h25 e

/-- Settles O17. -/
theorem kindRowsAgreeWithDecode : Obligations.KindRowsAgreeWithDecode := by
  intro k P s h
  have hdecode : decodePayload s.params (s.params.attrDir.get k) (s.params.attrCode.get k) P =
      decodeKind k P := by rw [decodePayload, lookup_key h k]
  rw [exec_decodeInstr, ← hdecode]
  rfl

/-! ### Decoding what the encoder writes -/

section
variable {P : List Byte}

theorem countByte_length_toNat (h : fitsByteCount P = true) :
    (countByte P.length).toNat = P.length :=
  countByte_toNat (by simpa [fitsByteCount] using h)

/-- The operands of a FIELDS command read back (R82). -/
theorem decodeFields_encoded (h : fitsByteCount P = true)
    (mk : Byte → Byte → Byte → List Byte → Instr) (d rw a : Byte) :
    decodeFields mk (d :: rw :: a :: countByte P.length :: P) = .ok (mk d rw a P) :=
  if_pos (countByte_length_toNat h).symm

/-- The operands of a DFIELDS command read back (R82). -/
theorem decodeDfields_encoded (h : fitsByteCount P = true) (mk : Byte → Byte → List Byte → Instr)
    (d a : Byte) : decodeDfields mk (d :: a :: countByte P.length :: P) = .ok (mk d a P) :=
  if_pos (countByte_length_toNat h).symm

/-- The operand of a STREAM command reads back (R82). -/
theorem decodeStream_encoded (h : fitsHalfCount P = true) (mk : List Byte → Instr) :
    decodeStream mk (lowByte (countHalf P.length) :: highByte (countHalf P.length) :: P) =
      .ok (mk P) := by
  have hlen : P.length ≤ 65535 := by simpa [fitsHalfCount] using h
  have hcount : (countHalf P.length).toNat = P.length := by simp [countHalf]; omega
  rw [decodeStream, le16Bytes_low_high, hcount, if_pos rfl]

end

/-- Fields that no request row spells are spelled ENCODE (R89). -/
theorem spellEncode_other {rw : Byte} {P : List Byte} (hr : isReadReq rw P = false)
    (hw : isWriteReq rw = false) (d a : Byte) : spellEncode d rw a P = .encode d rw a P := by
  simp [spellEncode, hr, hw]

/-- A known key is spelled by its kind's row (R73). -/
theorem spellDecode_key {p : Params} (h : p.Legal) (k : AttrKind) (P : List Byte) :
    spellDecode p (p.attrDir.get k) (p.attrCode.get k) P = k.decodeInstr P := by
  rw [spellDecode, lookup_key h k]

/-- A key of no kind is spelled DECODE (R73). -/
theorem spellDecode_unknown {p : Params} {d a : Byte} (h : lookup p d a = none) (P : List Byte) :
    spellDecode p d a P = .decode d a P := by rw [spellDecode, h]

/-- A reserved opcode, in the words of R81, decodes whatever follows it. -/
theorem decode_of_reservedOpcode {op : Byte} (h : reservedOpcode op = true) (p : Params)
    (rest : List Byte) : decode p (op :: rest) = .ok (decodeReserved op rest) := by
  apply decode_reserved <;> rintro rfl <;> exact absurd h (by decide)

/-! The reserved rows: the fixed high bits of each rule out the wider rows (R87). -/

section
variable (p : Params) (rest : List Byte)

theorem decode_row80 (lo : BitVec 7) :
    decode p ((1#1 ++ lo) :: rest) = .ok (.reserved80 lo rest) := by
  rw [decode_of_reservedOpcode (by revert lo; decide), decodeReserved,
    if_pos (by revert lo; decide), BitVec.extractLsb'_append_eq_right]

theorem decode_row40 (lo : BitVec 6) :
    decode p ((1#2 ++ lo) :: rest) = .ok (.reserved40 lo rest) := by
  rw [decode_of_reservedOpcode (by revert lo; decide), decodeReserved,
    if_neg (by revert lo; decide), if_pos (by revert lo; decide),
    BitVec.extractLsb'_append_eq_right]

theorem decode_row20 (lo : BitVec 5) :
    decode p ((1#3 ++ lo) :: rest) = .ok (.reserved20 lo rest) := by
  rw [decode_of_reservedOpcode (by revert lo; decide), decodeReserved,
    if_neg (by revert lo; decide), if_neg (by revert lo; decide), if_pos (by revert lo; decide),
    BitVec.extractLsb'_append_eq_right]

theorem decode_row10 (lo : BitVec 4) :
    decode p ((1#4 ++ lo) :: rest) = .ok (.reserved10 lo rest) := by
  rw [decode_of_reservedOpcode (by revert lo; decide), decodeReserved,
    if_neg (by revert lo; decide), if_neg (by revert lo; decide), if_neg (by revert lo; decide),
    if_pos (by revert lo; decide), BitVec.extractLsb'_append_eq_right]

theorem decode_row08 (lo : BitVec 3) :
    decode p ((1#5 ++ lo) :: rest) = .ok (.reserved08 lo rest) := by
  rw [decode_of_reservedOpcode (by revert lo; decide), decodeReserved,
    if_neg (by revert lo; decide), if_neg (by revert lo; decide), if_neg (by revert lo; decide),
    if_neg (by revert lo; decide), if_pos (by revert lo; decide),
    BitVec.extractLsb'_append_eq_right]

theorem decode_row06 (lo : BitVec 1) :
    decode p ((3#7 ++ lo) :: rest) = .ok (.reserved06 lo rest) := by
  rw [decode_of_reservedOpcode (by revert lo; decide), decodeReserved,
    if_neg (by revert lo; decide), if_neg (by revert lo; decide), if_neg (by revert lo; decide),
    if_neg (by revert lo; decide), if_neg (by revert lo; decide), if_pos (by revert lo; decide),
    BitVec.extractLsb'_append_eq_right]

end

/-- The bytes of a kind's row decode to that row under legal maps (R73). -/
theorem decode_encodeKind {p : Params} (hp : p.Legal) (k : AttrKind) {P : List Byte}
    (h : fitsByteCount P = true) : decode p (encodeKind p k P) = .ok (k.decodeInstr P) := by
  rw [encodeKind, encodeDfields, decode_decode, decodeDfields_encoded h, spellDecode_key hp]

/-- Settles O14, by the rows: the operands of each format read back, and where several rows spell the
same bytes, well-formedness leaves the one the decoder answers. -/
theorem decodeOfEncodeIsIdentity : Obligations.DecodeOfEncodeIsIdentity := by
  intro p i hp h
  cases i with
  | checksum d rw a P => exact decodeFields_encoded h .checksum d rw a
  | encode d rw a P =>
    obtain ⟨⟨hP, hr⟩, hw⟩ : (fitsByteCount P = true ∧ isReadReq rw P = false) ∧
        isWriteReq rw = false := by simpa [Instr.wellFormed] using h
    exact (decodeFields_encoded hP spellEncode d rw a).trans
      (congrArg _ (spellEncode_other hr hw d a))
  | parse B => exact decodeStream_encoded h .parse
  | push C => exact decodeStream_encoded h .push
  | decode d a P =>
    obtain ⟨hP, hk⟩ : fitsByteCount P = true ∧ lookup p d a = none := by
      simpa [Instr.wellFormed] using h
    exact (decodeDfields_encoded hP (spellDecode p) d a).trans
      (congrArg _ (spellDecode_unknown hk P))
  | readReq d a n => exact decodeFields_encoded (P := [n]) rfl spellEncode d readCode a
  | writeReq d a P => exact decodeFields_encoded h spellEncode d writeCode a
  | reserved00 rest => rfl
  | reserved06 lo rest => exact decode_row06 p rest lo
  | reserved08 lo rest => exact decode_row08 p rest lo
  | reserved10 lo rest => exact decode_row10 p rest lo
  | reserved20 lo rest => exact decode_row20 p rest lo
  | reserved40 lo rest => exact decode_row40 p rest lo
  | reserved80 lo rest => exact decode_row80 p rest lo
  | decodeDistanceLeft P => exact decode_encodeKind hp .distanceLeft h
  | decodeSpeed P => exact decode_encodeKind hp .speed h
  | decodeTripDistance P => exact decode_encodeKind hp .tripDistance h
  | decodeTailLight P => exact decode_encodeKind hp .tailLight h
  | decodeCruise P => exact decode_encodeKind hp .cruise h
  | decodeGetLock P => exact decode_encodeKind hp .getLock h
  | decodeBatteryVoltage P => exact decode_encodeKind hp .batteryVoltage h
  | decodeBatteryCurrent P => exact decode_encodeKind hp .batteryCurrent h
  | decodeBatteryPercent P => exact decode_encodeKind hp .batteryPercent h
  | decodeBatteryInfo P => exact decode_encodeKind hp .batteryInfo h
  | decodeBatteryCellVoltages P => exact decode_encodeKind hp .batteryCellVoltages h
  | decodeGeneralInfo P => exact decode_encodeKind hp .generalInfo h
  | decodeMotorInfo P => exact decode_encodeKind hp .motorInfo h
  | decodeTripInfo P => exact decode_encodeKind hp .tripInfo h
  | decodeSupplementary P => exact decode_encodeKind hp .supplementary h

/-! ### Encoding what the decoder reads -/

theorem fitsByteCount_of_length_eq {P : List Byte} {n : Byte} (h : P.length = n.toNat) :
    fitsByteCount P = true := by
  have := n.isLt
  simp [fitsByteCount]
  omega

/-- The count byte of a payload is the byte it was read from (R82). -/
theorem countByte_of_length_eq {P : List Byte} {n : Byte} (h : P.length = n.toNat) :
    countByte P.length = n := by rw [h, countByte_toNat_self]

/-- A STREAM command's sequence fits its count and encodes to the bytes it was read from (R82). -/
theorem encodeStream_of_length_eq {B : List Byte} {lo hi : Byte}
    (h : B.length = (le16Bytes lo hi).toNat) (op : Byte) :
    fitsHalfCount B = true ∧ encodeStream op B = op :: lo :: hi :: B := by
  have hcount : countHalf B.length = le16Bytes lo hi := by rw [h, countHalf, BitVec.ofNat_toNat,
    BitVec.setWidth_eq]
  have := (le16Bytes lo hi).isLt
  refine ⟨?_, by rw [encodeStream, hcount, lowByte_le16Bytes, highByte_le16Bytes]⟩
  simp [fitsHalfCount, h]
  omega

/-- Every spelling of an ENCODE has its bytes (R89). -/
theorem encode_spellEncode (p : Params) (d rw a : Byte) (P : List Byte) :
    encode p (spellEncode d rw a P) = encodeFields 0x02#8 d rw a P := by
  unfold spellEncode
  split
  · rename_i hw
    obtain rfl : rw = writeCode := by simpa [isWriteReq] using hw
    rfl
  · split
    · rename_i hr
      obtain ⟨rfl, hP⟩ : rw = readCode ∧ P.length = 1 := by simpa [isReadReq] using hr
      obtain ⟨n, rfl⟩ := List.length_eq_one_iff.mp hP
      rfl
    · rfl

/-- The row that spells an ENCODE is the narrowest one (R89). -/
theorem spellEncode_wellFormed (p : Params) (d rw a : Byte) {P : List Byte}
    (h : fitsByteCount P = true) : (spellEncode d rw a P).wellFormed p = true := by
  unfold spellEncode
  split
  · exact h
  · split
    · rfl
    · simp_all [Instr.wellFormed]

/-- Every spelling of a DECODE has its bytes (R73). -/
theorem encode_spellDecode (p : Params) (d a : Byte) (P : List Byte) :
    encode p (spellDecode p d a P) = encodeDfields 0x05#8 d a P := by
  unfold spellDecode
  cases hk : lookup p d a with
  | none => rfl
  | some k =>
    obtain ⟨rfl, rfl⟩ := Prod.mk.inj (key_of_lookup hk)
    exact encode_decodeInstr p k P

/-- The row that spells a DECODE is the narrowest one (R73). -/
theorem spellDecode_wellFormed (p : Params) (d a : Byte) {P : List Byte}
    (h : fitsByteCount P = true) : (spellDecode p d a P).wellFormed p = true := by
  unfold spellDecode
  cases hk : lookup p d a with
  | none => simp [Instr.wellFormed, h, hk]
  | some k => exact (decodeInstr_wellFormed p k P).trans h

/-- Settles O15, by the opcodes of R81. -/
theorem encodeOfDecodeIsIdentity : Obligations.EncodeOfDecodeIsIdentity := by
  intro p cmd i h
  cases cmd with
  | nil => simp at h
  | cons op rest =>
    rcases opcode_cases op with rfl | rfl | rfl | rfl | rfl | ⟨h1, h2, h3, h4, h5⟩
    · obtain ⟨d, rw, a, n, P, rfl, hn, rfl⟩ := decodeFields_ok_iff.mp h
      exact ⟨fitsByteCount_of_length_eq hn, by
        rw [encode, encodeFields, countByte_of_length_eq hn]⟩
    · obtain ⟨d, rw, a, n, P, rfl, hn, rfl⟩ := decodeFields_ok_iff.mp h
      exact ⟨spellEncode_wellFormed p d rw a (fitsByteCount_of_length_eq hn), by
        rw [encode_spellEncode, encodeFields, countByte_of_length_eq hn]⟩
    · obtain ⟨lo, hi, B, rfl, hn, rfl⟩ := decodeStream_ok_iff.mp h
      exact encodeStream_of_length_eq hn 0x03#8
    · obtain ⟨lo, hi, C, rfl, hn, rfl⟩ := decodeStream_ok_iff.mp h
      exact encodeStream_of_length_eq hn 0x04#8
    · obtain ⟨d, a, n, P, rfl, hn, rfl⟩ := decodeDfields_ok_iff.mp h
      exact ⟨spellDecode_wellFormed p d a (fitsByteCount_of_length_eq hn), by
        rw [encode_spellDecode, encodeDfields, countByte_of_length_eq hn]⟩
    · cases (decode_reserved p rest h1 h2 h3 h4 h5).symm.trans h
      exact ⟨decodeReserved_wellFormed p rest op, encode_decodeReserved p rest h1 h2 h3 h4 h5⟩

/-! ### The responses of PUSH -/

/-- The responses of a PUSH whose chunk is not over the limit, one constructor for each status (R83):
the index is that of a stored entry, and at most one entry is evicted. -/
inductive PushAnswer (p : Params) (pend : List Entry) : Response → Prop
  | ignored :
    PushAnswer p pend { status := .ignoredEmpty, evicted := some 0, expired := some 0 }
  | direct (f : Frame) : PushAnswer p pend
      (dispatchReply p (pushReply .dispatchedDirect .ok 0 (expiredCount p pend)) f)
  | corrupt : PushAnswer p pend
      (pushReply .discardedChecksum .invalidChecksum 0 (expiredCount p pend))
  | buffered (evicted : Nat) (h : evicted ≤ 1) : PushAnswer p pend
      (pushReply .buffered .disjointed evicted (expiredCount p pend))
  | combined (i : Nat) (f : Frame) (h : i < pend.length) : PushAnswer p pend
      (dispatchReply p { pushReply .dispatchedCombined .invalidHeader 0 (expiredCount p pend) with
        index := some i } f)
  | accumulated (i : Nat) (h : i < pend.length) : PushAnswer p pend
      { pushReply .accumulated .invalidHeader 0 (expiredCount p pend) with index := some i }
  | unmatched : PushAnswer p pend
      (pushReply .discardedNoMatch .invalidHeader 0 (expiredCount p pend))

/-- A PUSH that is neither too long nor empty gives one of these responses (R143 to R149). -/
theorem pushChunk_answer (p : Params) (pend : List Entry) (C : List Byte) :
    PushAnswer p pend (pushChunk p pend C).2 := by
  have hle := survivors_length_le p pend
  rw [pushChunk_eq]
  cases parse C with
  | ok f => exact .direct f
  | invalidChecksum => exact .corrupt
  | disjointed => exact .buffered _ (by dsimp only [pushByStatus]; split <;> decide)
  | invalidHeader =>
    simp only [pushByStatus]
    rcases pushTail_cases p (survivors p pend) C with
      ⟨i, f, hf, e⟩ | ⟨-, -, i, hi, e⟩ | ⟨-, -, e⟩ <;> rw [e]
    · obtain ⟨hlt, -⟩ := firstComplete_eq_some.mp hf
      exact .combined i f (by omega)
    · obtain ⟨hlt, -⟩ := firstExtended_eq_some.mp hi
      exact .accumulated i (by omega)
    · exact .unmatched

theorem execPush_of_tooLong {C : List Byte} {s : State} (h : s.params.chunkMax < C.length) :
    execPush C s = .next (s.respond (.alone .rejectedTooLong)) := if_pos h

/-- A PUSH whose chunk is not over the limit adds one of these responses, and writes nothing but the
store (R21, R83). -/
theorem execPush_answer {C : List Byte} {s : State} (h : C.length ≤ s.params.chunkMax) :
    ∃ t r, execPush C s = .next t ∧ t.responses = s.responses ++ [r] ∧ t.params = s.params ∧
      t.port = s.port ∧ PushAnswer s.params s.pend r := by
  by_cases hC : C = []
  · subst hC
    exact ⟨_, _, if_neg (Nat.not_lt.mpr h), rfl, rfl, rfl, .ignored⟩
  · exact ⟨_, _, execPush_of_chunk h hC, rfl, rfl, rfl, pushChunk_answer _ _ _⟩

/-- The presence conditions of the PUSH row of R83. -/
def PushRow (r : Response) : Prop :=
  (r.parseStatus.isSome ↔ r.status ≠ .ignoredEmpty ∧ r.status.isRejection = false) ∧
  (r.index.isSome ↔ r.status = .dispatchedCombined ∨ r.status = .accumulated) ∧
  (r.evicted.isSome ↔ r.status.isRejection = false) ∧
  (r.expired.isSome ↔ r.status.isRejection = false) ∧
  (r.frame.isSome ↔ r.status = .dispatchedDirect ∨ r.status = .dispatchedCombined) ∧
  (r.decode.isSome ↔ r.status = .dispatchedDirect ∨ r.status = .dispatchedCombined) ∧
  r.checksum = none ∧ r.frameBytes = none ∧ r.kind = none ∧ r.fields = none

theorem pushRow_tooLong : PushRow (.alone .rejectedTooLong) := by
  simp [PushRow, Response.alone, Status.isRejection]

section
variable {p : Params} {pend : List Entry} {r : Response}

theorem PushAnswer.row (h : PushAnswer p pend r) : PushRow r := by
  cases h <;> simp [PushRow, dispatchReply, pushReply, Status.isRejection]

theorem PushAnswer.not_isRejection (h : PushAnswer p pend r) : r.status.isRejection = false := by
  cases h <;> rfl

theorem expiredCount_le_length (p : Params) (es : List Entry) : expiredCount p es ≤ es.length := by
  unfold expiredCount
  split
  · exact Nat.zero_le _
  · exact List.countP_le_length

/-- The counts of a PUSH response are bounded by the store it found (R141, R145, R147). -/
theorem PushAnswer.counts_le (h : PushAnswer p pend r) :
    (∀ n, r.index = some n → n < pend.length) ∧ (∀ n, r.evicted = some n → n ≤ 1) ∧
    ∀ n, r.expired = some n → n ≤ pend.length := by
  have := expiredCount_le_length p pend
  cases h <;> simp_all [dispatchReply, pushReply]

end

/-- Settles O42. -/
theorem pushResponseFields : Obligations.PushResponseFields := by
  intro C s
  rcases Nat.lt_or_ge s.params.chunkMax C.length with hl | hl
  · exact ⟨_, _, execPush_of_tooLong hl, rfl, rfl, rfl, pushRow_tooLong⟩
  · obtain ⟨t, r, he, hresp, hparams, hport, hr⟩ := execPush_answer hl
    exact ⟨t, r, he, hresp, hparams, hport, hr.row⟩

/-- Settles O43. -/
theorem pushCountsFitBytes : Obligations.PushCountsFitBytes := by
  intro C s hs
  obtain ⟨-, -, ⟨-, hdepth⟩, -⟩ := hs.legal
  have hpend : s.pend.length ≤ 255 := hs.store.depth.trans hdepth
  rcases Nat.lt_or_ge s.params.chunkMax C.length with hl | hl
  · exact ⟨_, .alone .rejectedTooLong, execPush_of_tooLong hl, rfl, hpend, nofun, nofun, nofun⟩
  · obtain ⟨t, r, he, hresp, -, -, hr⟩ := execPush_answer hl
    exact ⟨t, r, he, hresp, hpend, hr.counts_le⟩

/-! ### The rejections of R85 -/

/-- The rejection that the meaning of an instruction answers: a reserved opcode, or an operand over
the command's own limit (R85, checks 2 and 4). -/
def execRejection (p : Params) : Instr → Option Status
  | .checksum _ _ _ P | .encode _ _ _ P | .writeReq _ _ P =>
    if maxPayload < P.length then some .errPayloadTooLong else none
  | .parse B => if p.parseMax < B.length then some .rejectedTooLong else none
  | .push C => if p.chunkMax < C.length then some .rejectedTooLong else none
  | .reserved00 _ | .reserved06 _ _ | .reserved08 _ _ | .reserved10 _ _ | .reserved20 _ _
  | .reserved40 _ _ | .reserved80 _ _ => some .rejectedBadOpcode
  | _ => none

/-- A byte that is none of the five opcodes is a reserved opcode, in the words of R81. -/
theorem reservedOpcode_of_ne {op : Byte} (h1 : op ≠ 0x01#8) (h2 : op ≠ 0x02#8) (h3 : op ≠ 0x03#8)
    (h4 : op ≠ 0x04#8) (h5 : op ≠ 0x05#8) : reservedOpcode op = true := by
  simp only [ne_eq, BitVec.toNat_eq, BitVec.toNat_ofNat] at h1 h2 h3 h4 h5
  simp only [reservedOpcode, Bool.or_eq_true, decide_eq_true_eq]
  omega

section
variable {op : Byte} {rest : List Byte}

/-- Check 2 of R85, whatever follows the opcode. -/
theorem rejection_of_reserved (p : Params) (rest : List Byte) (hop : reservedOpcode op = true) :
    rejection p (op :: rest) = some .rejectedBadOpcode := by
  simp [rejection, hop]

/-- Check 3 of R85, the fixed part. -/
theorem rejection_of_short (p : Params) (hop : reservedOpcode op = false)
    (h : rest.length + 1 < fixedPart op) :
    rejection p (op :: rest) = some .rejectedMalformed := by
  simp [rejection, hop, h]

/-- Check 3 of R85, the total length. -/
theorem rejection_of_length_ne (p : Params) (hop : reservedOpcode op = false)
    (h : rest.length + 1 ≠ formatLength (op :: rest)) :
    rejection p (op :: rest) = some .rejectedMalformed := by
  simp [rejection, hop, h]

/-- A command of its format's length is left to check 4 of R85. -/
theorem rejection_of_length_eq (p : Params) (hop : reservedOpcode op = false)
    (hfix : fixedPart op ≤ rest.length + 1) (h : rest.length + 1 = formatLength (op :: rest)) :
    rejection p (op :: rest) = lengthLimit p (op :: rest) := by
  simp [rejection, hop, ← h, Nat.not_lt.mpr hfix]

end

/-! The decoder of each format checks the length exactly as R85 does, check 3. -/

section
variable (rest : List Byte)

theorem decodeFields_cases (mk : Byte → Byte → Byte → List Byte → Instr) :
    (rest.length < 4 ∧ decodeFields mk rest = .error .shortFixedPart) ∨
    ∃ d rw a n P, rest = d :: rw :: a :: n :: P ∧
      ((P.length ≠ n.toNat ∧ decodeFields mk rest = .error .lengthDiffers) ∨
       (P.length = n.toNat ∧ decodeFields mk rest = .ok (mk d rw a P))) := by
  match rest with
  | [] | [_] | [_, _] | [_, _, _] => exact .inl ⟨by simp, rfl⟩
  | d :: rw :: a :: n :: P =>
    refine .inr ⟨d, rw, a, n, P, rfl, ?_⟩
    by_cases h : P.length = n.toNat
    · exact .inr ⟨h, if_pos h⟩
    · exact .inl ⟨h, if_neg h⟩

theorem decodeStream_cases (mk : List Byte → Instr) :
    (rest.length < 2 ∧ decodeStream mk rest = .error .shortFixedPart) ∨
    ∃ lo hi B, rest = lo :: hi :: B ∧
      ((B.length ≠ lo.toNat + 256 * hi.toNat ∧ decodeStream mk rest = .error .lengthDiffers) ∨
       (B.length = lo.toNat + 256 * hi.toNat ∧ decodeStream mk rest = .ok (mk B))) := by
  match rest with
  | [] | [_] => exact .inl ⟨by simp, rfl⟩
  | lo :: hi :: B =>
    refine .inr ⟨lo, hi, B, rfl, ?_⟩
    rw [← le16Bytes_toNat]
    by_cases h : B.length = (le16Bytes lo hi).toNat
    · exact .inr ⟨h, if_pos h⟩
    · exact .inl ⟨h, if_neg h⟩

theorem decodeDfields_cases (mk : Byte → Byte → List Byte → Instr) :
    (rest.length < 3 ∧ decodeDfields mk rest = .error .shortFixedPart) ∨
    ∃ d a n P, rest = d :: a :: n :: P ∧
      ((P.length ≠ n.toNat ∧ decodeDfields mk rest = .error .lengthDiffers) ∨
       (P.length = n.toNat ∧ decodeDfields mk rest = .ok (mk d a P))) := by
  match rest with
  | [] | [_] | [_, _] => exact .inl ⟨by simp, rfl⟩
  | d :: a :: n :: P =>
    refine .inr ⟨d, a, n, P, rfl, ?_⟩
    by_cases h : P.length = n.toNat
    · exact .inr ⟨h, if_pos h⟩
    · exact .inl ⟨h, if_neg h⟩

end

/-- The payload of an ENCODE limits it alike in each spelling (R85, R89). -/
theorem execRejection_spellEncode (p : Params) (d rw a : Byte) (P : List Byte) :
    execRejection p (spellEncode d rw a P) =
      if maxPayload < P.length then some .errPayloadTooLong else none := by
  unfold spellEncode
  split
  · rfl
  · split
    · rename_i hr
      obtain ⟨-, hP⟩ : rw = readCode ∧ P.length = 1 := by simpa [isReadReq] using hr
      rw [hP]
      rfl
    · rfl

theorem execRejection_spellDecode (p : Params) (d a : Byte) (P : List Byte) :
    execRejection p (spellDecode p d a P) = none := by
  unfold spellDecode
  cases lookup p d a with
  | none => rfl
  | some k => cases k <;> rfl

theorem execRejection_decodeReserved (p : Params) (op : Byte) (rest : List Byte) :
    execRejection p (decodeReserved op rest) = some .rejectedBadOpcode := by
  unfold decodeReserved
  split_ifs <;> rfl

/-- A FIELDS command is malformed for the decoder and for R85 alike, or only its limit remains. -/
theorem decodeFields_rejection_cases {op : Byte} (hop : op = 0x01#8 ∨ op = 0x02#8) (p : Params)
    (mk : Byte → Byte → Byte → List Byte → Instr)
    (hmk : ∀ d rw a P, execRejection p (mk d rw a P) =
      if maxPayload < P.length then some .errPayloadTooLong else none) (rest : List Byte) :
    (∃ e, decodeFields mk rest = .error e ∧ rejection p (op :: rest) = some .rejectedMalformed) ∨
    ∃ i, decodeFields mk rest = .ok i ∧ rejection p (op :: rest) = execRejection p i := by
  have hop2 : op.toNat ≤ 2 := by rcases hop with rfl | rfl <;> decide
  have hres : reservedOpcode op = false := by rcases hop with rfl | rfl <;> decide
  have hfix : fixedPart op = 5 := if_pos hop2
  rcases decodeFields_cases rest mk with ⟨hl, e⟩ | ⟨d, rw, a, n, P, rfl, ⟨hn, e⟩ | ⟨hn, e⟩⟩
  · exact .inl ⟨_, e, rejection_of_short p hres (by omega)⟩
  · exact .inl ⟨_, e, rejection_of_length_ne p hres (by simp [formatLength, hop2]; omega)⟩
  · refine .inr ⟨_, e, ?_⟩
    rw [hmk, rejection_of_length_eq p hres (by simp; omega) (by simp [formatLength, hop2]; omega)]
    simp [lengthLimit, hop2, maxPayload, hn]

/-- A STREAM command is malformed for the decoder and for R85 alike, or only its limit remains. -/
theorem decodeStream_rejection_cases {op : Byte} (hop : op = 0x03#8 ∨ op = 0x04#8) (p : Params)
    (mk : List Byte → Instr) (hmk : ∀ lo hi B, B.length = lo.toNat + 256 * hi.toNat →
      lengthLimit p (op :: lo :: hi :: B) = execRejection p (mk B)) (rest : List Byte) :
    (∃ e, decodeStream mk rest = .error e ∧ rejection p (op :: rest) = some .rejectedMalformed) ∨
    ∃ i, decodeStream mk rest = .ok i ∧ rejection p (op :: rest) = execRejection p i := by
  have hop4 : ¬ op.toNat ≤ 2 ∧ op.toNat ≤ 4 := by rcases hop with rfl | rfl <;> decide
  have hres : reservedOpcode op = false := by rcases hop with rfl | rfl <;> decide
  have hfix : fixedPart op = 3 := by simp [fixedPart, hop4]
  rcases decodeStream_cases rest mk with ⟨hl, e⟩ | ⟨lo, hi, B, rfl, ⟨hn, e⟩ | ⟨hn, e⟩⟩
  · exact .inl ⟨_, e, rejection_of_short p hres (by omega)⟩
  · exact .inl ⟨_, e, rejection_of_length_ne p hres
      (by simp [formatLength, streamCount, hop4]; omega)⟩
  · refine .inr ⟨_, e, ?_⟩
    rw [← hmk lo hi B hn]
    exact rejection_of_length_eq p hres (by simp; omega)
      (by simp [formatLength, streamCount, hop4]; omega)

/-- Every command is malformed for the decoder and for R85 alike, or it decodes and R85 rejects it
exactly as its meaning does. -/
theorem decode_rejection_cases (p : Params) (cmd : List Byte) :
    (∃ e, decode p cmd = .error e ∧ rejection p cmd = some .rejectedMalformed) ∨
    ∃ i, decode p cmd = .ok i ∧ rejection p cmd = execRejection p i := by
  cases cmd with
  | nil => exact .inl ⟨.empty, rfl, rfl⟩
  | cons op rest =>
    rcases opcode_cases op with rfl | rfl | rfl | rfl | rfl | ⟨h1, h2, h3, h4, h5⟩
    · exact decodeFields_rejection_cases (.inl rfl) p .checksum (fun _ _ _ _ => rfl) rest
    · exact decodeFields_rejection_cases (.inr rfl) p spellEncode (execRejection_spellEncode p) rest
    · exact decodeStream_rejection_cases (.inl rfl) p .parse
        (fun lo hi B hn => by simp [lengthLimit, streamCount, execRejection, hn]) rest
    · exact decodeStream_rejection_cases (.inr rfl) p .push
        (fun lo hi C hn => by simp [lengthLimit, streamCount, execRejection, hn]) rest
    · rcases decodeDfields_cases rest (spellDecode p) with
        ⟨hl, e⟩ | ⟨d, a, n, P, rfl, ⟨hn, e⟩ | ⟨hn, e⟩⟩
      · exact .inl ⟨_, e, rejection_of_short p rfl (by simp [fixedPart]; omega)⟩
      · exact .inl ⟨_, e, rejection_of_length_ne p rfl (by simp [formatLength]; omega)⟩
      · refine .inr ⟨_, e, ?_⟩
        rw [execRejection_spellDecode, rejection_of_length_eq p rfl (by simp [fixedPart])
          (by simp [formatLength]; omega)]
        rfl
    · refine .inr ⟨_, decode_reserved p rest h1 h2 h3 h4 h5, ?_⟩
      rw [execRejection_decodeReserved]
      exact rejection_of_reserved p rest (reservedOpcode_of_ne h1 h2 h3 h4 h5)

/-! ### Running a command -/

theorem decodeResponse_not_isRejection (k : AttrKind) (P : List Byte) :
    (decodeResponse (decodeKind k P)).status.isRejection = false := by
  unfold decodeKind
  split <;> rfl

theorem decodePayload_not_isRejection (p : Params) (d a : Byte) (P : List Byte) :
    (decodeResponse (decodePayload p d a P)).status.isRejection = false := by
  unfold decodePayload
  cases lookup p d a with
  | none => rfl
  | some k => exact decodeResponse_not_isRejection k P

theorem parseResponse_not_isRejection (B : List Byte) :
    (parseResponse (parse B)).status.isRejection = false := by cases parse B <;> rfl

/-- How an outcome answers a command that R85 rejects with `rej`, if at all: with that status alone, or
with one response whose status is no rejection (R83, R85). -/
def AnswersAs (s : State) (rej : Option Status) (o : Host.Outcome State Fault Refusal) : Prop :=
  (∃ st, rej = some st ∧ o = .next (s.respond (.alone st))) ∨
  (rej = none ∧ ∃ t r, o = .next t ∧ t.responses = s.responses ++ [r] ∧
    r.status.isRejection = false)

theorem answersAs_respond {s : State} {r : Response} (h : r.status.isRejection = false) :
    AnswersAs s none (.next (s.respond r)) := .inr ⟨rfl, _, r, rfl, rfl, h⟩

theorem answersAs_alone (s : State) (st : Status) :
    AnswersAs s (some st) (.next (s.respond (.alone st))) := .inl ⟨st, rfl, rfl⟩

/-- A response behind a length limit (R85, check 4). -/
theorem answersAs_limit {s : State} {c : Prop} [Decidable c] (st : Status) {r : Response}
    (h : r.status.isRejection = false) : AnswersAs s (if c then some st else none)
      (.next (s.respond (if c then .alone st else r))) := by
  split
  · exact answersAs_alone s st
  · exact answersAs_respond h

/-- Every instruction answers as its rejection says. -/
theorem exec_answersAs (i : Instr) (s : State) :
    AnswersAs s (execRejection s.params i) (exec i s) := by
  cases i with
  | checksum d rw a P =>
    exact answersAs_limit (r := { status := .ok, checksum := some (checksum d rw a P) })
      .errPayloadTooLong rfl
  | encode d rw a P =>
    exact answersAs_limit (r := { status := .ok, frameBytes := some (encodeFrame d rw a P) })
      .errPayloadTooLong rfl
  | writeReq d a P =>
    exact answersAs_limit (r := { status := .ok, frameBytes := some (encodeFrame d writeCode a P) })
      .errPayloadTooLong rfl
  | readReq d a n => exact answersAs_respond rfl
  | parse B =>
    by_cases h : s.params.parseMax < B.length
    · exact .inl ⟨_, if_pos h, if_pos h⟩
    · exact .inr ⟨if_neg h, _, _, if_neg h, rfl, parseResponse_not_isRejection B⟩
  | push C =>
    by_cases h : s.params.chunkMax < C.length
    · exact .inl ⟨_, if_pos h, if_pos h⟩
    · obtain ⟨t, r, he, hresp, -, -, hr⟩ := execPush_answer (Nat.not_lt.mp h)
      exact .inr ⟨if_neg h, t, r, he, hresp, hr.not_isRejection⟩
  | decode d a P => exact answersAs_respond (decodePayload_not_isRejection s.params d a P)
  | reserved00 | reserved06 | reserved08 | reserved10 | reserved20 | reserved40 | reserved80 =>
    exact answersAs_alone s .rejectedBadOpcode
  | _ => exact answersAs_respond (decodeResponse_not_isRejection _ _)

/-- Settles O4. -/
theorem stepRunsDecodedInstruction : Obligations.StepRunsDecodedInstruction := by
  intro s cmd rest i hl hs hp hd
  rw [step_command hl hs hp, hd]
  rfl

/-- Settles O5. -/
theorem rejectedCommandAnswersOnly : Obligations.RejectedCommandAnswersOnly := by
  intro s cmd rest st hl hs hp h
  rw [step_command hl hs hp]
  rcases decode_rejection_cases s.params cmd with ⟨e, hd, hr⟩ | ⟨i, hd, hr⟩
  · cases hr.symm.trans h
    rw [hd]
    rfl
  · rw [hd]
    rcases exec_answersAs i (s.setPort rest) with ⟨st', he, hx⟩ | ⟨he, -⟩
    · cases (hr.trans he).symm.trans h
      exact hx
    · cases (hr.trans he).symm.trans h

/-- Settles O6. -/
theorem acceptedCommandRuns : Obligations.AcceptedCommandRuns := by
  intro s cmd rest hl hs hp h
  rcases decode_rejection_cases s.params cmd with ⟨e, -, hr⟩ | ⟨i, hd, hr⟩
  · cases hr.symm.trans h
  · rcases exec_answersAs i (s.setPort rest) with ⟨st, he, -⟩ | ⟨-, t, r, hx, hresp, hnot⟩
    · cases (hr.trans he).symm.trans h
    · obtain ⟨hwf, -⟩ := encodeOfDecodeIsIdentity s.params cmd i hd
      have hstep := stepRunsDecodedInstruction s cmd rest i hl hs hp hd
      exact ⟨i, t, r, hd, hwf, hstep.trans hx, hresp, hnot⟩

/-- Settles O18. -/
theorem reservedOpcodesAreRejected : Obligations.ReservedOpcodesAreRejected :=
  fun _ _ => ⟨_, rfl, rfl, fun _ => rfl, fun _ => rfl, fun _ => rfl, fun _ => rfl, fun _ => rfl,
    fun _ => rfl⟩

theorem exec_writeReq (d a : Byte) (P : List Byte) (s : State) :
    exec (.writeReq d a P) s = .next (s.respond (encodeResponse d writeCode a P)) := rfl

/-- Settles O23. -/
theorem requestsExpandToEncode : Obligations.RequestsExpandToEncode := by
  refine ⟨fun p d a n s => ⟨rfl, rfl, rfl⟩, fun p d a P s => ⟨rfl, rfl, fun h => ?_, fun h => ?_⟩⟩
  · have hle : ¬ maxPayload < P.length := Nat.not_lt.mpr h
    rw [exec_writeReq, encodeResponse, if_neg hle]
    rfl
  · have hlt : maxPayload < P.length := h
    rw [exec_writeReq, encodeResponse, if_pos hlt]
    rfl

/-- Settles O16: closed commands, evaluated. -/
theorem specWordsDecode : Obligations.SpecWordsDecode := by
  refine ⟨?_, ?_, ?_, ?_, ?_⟩ <;> rfl

/-! ### The status codes and the layouts -/

/-- Every status, in the order of the table of R84. -/
def Status.all : List Status :=
  [.ok, .invalidHeader, .disjointed, .invalidChecksum, .ignoredEmpty, .dispatchedDirect, .buffered,
   .dispatchedCombined, .discardedNoMatch, .discardedChecksum, .accumulated, .decoded, .unhandled,
   .lengthMismatch, .rejectedBadOpcode, .rejectedMalformed, .rejectedTooLong, .errPayloadTooLong]

theorem Status.mem_all (st : Status) : st ∈ Status.all := by cases st <;> decide

theorem Status.codes_nodup : (Status.all.map Status.code).Nodup := by decide

/-- Settles O19: the codes of the table are distinct, and every status is in it. -/
theorem statusCodesAreTheTable : Obligations.StatusCodesAreTheTable :=
  ⟨rfl, fun a b h => List.inj_on_of_nodup_map Status.codes_nodup a.mem_all b.mem_all h⟩

/-- Settles O49: the table is closed, so it is evaluated kind by kind. -/
theorem layoutsCoverPayloads : Obligations.LayoutsCoverPayloads := by
  refine ⟨rfl, rfl, fun k => ?_⟩
  cases k <;> exact ⟨rfl, rfl⟩

/-- No data field of a layout has a reserved byte (R75, R185, R187, R188). -/
theorem reservedOffset_of_isData {k : AttrKind} {d : FieldDesc} (hd : d ∈ layout k)
    (hdata : d.isData = true) {o : Nat} (h1 : d.off ≤ o) (h2 : o < d.off + d.width) :
    reservedOffset k o = false := by
  have byIndex : ∀ d ∈ layout k, d.isData = true →
      ∀ j < d.width, reservedOffset k (d.off + j) = false := by cases k <;> decide
  have := byIndex d hd hdata (o - d.off) (by omega)
  rwa [Nat.add_sub_cancel' h1] at this

/-- Settles O50. -/
theorem reservedBytesDoNotMatter : Obligations.ReservedBytesDoNotMatter := by
  intro k P Q s hlen h
  have hfields : decodeFieldsFrom k P 0 (layout k) = decodeFieldsFrom k Q 0 (layout k) :=
    decodeFieldsFrom_congr hlen
      (fun d hd hdata o h1 h2 => h o (reservedOffset_of_isData hd hdata h1 h2)) 0
  have hkind : decodeKind k P = decodeKind k Q := by
    rw [decodeKind, decodeKind, hlen, hfields]
  rw [exec_decodeInstr, exec_decodeInstr, hkind]

end Sys2Proof.Machine
end

section
/-! PROOFS. The statements about the checksum and the codec: the checksum as the complement of the sum,
the commands CHECKSUM and ENCODE, what the checksum detects, and parsing an encoded frame
(40_checksum_codec.md). -/

namespace Sys2Proof.Machine

/-! ### The checksum as a function of the sum -/

section
variable {d rw a d' rw' a' : Byte} {P P' : List Byte}

/-- The largest sum is that of 253 payload bytes, three fields and a length byte, all 255: it is exactly
0xFFFF (R101). -/
theorem fieldSum_le (h : P.length ≤ 253) : fieldSum d rw a P ≤ 65535 := by
  have hP := payloadSum_le P
  have hd := d.isLt
  have hrw := rw.isLt
  have ha := a.isLt
  unfold fieldSum
  omega

/-- The length byte alone adds 2 (R101). -/
theorem two_le_fieldSum : 2 ≤ fieldSum d rw a P := by
  unfold fieldSum
  omega

theorem checksum_toNat (h : P.length ≤ 253) :
    (checksum d rw a P).toNat = 0xFFFF - fieldSum d rw a P := by
  rw [checksum, checksumSum_eq_fieldSum, complement16_toNat (fieldSum_le h)]

/-- Whatever the payload's length, equal sums have equal checksums (R105). -/
theorem checksum_congr (h : fieldSum d rw a P = fieldSum d' rw' a' P') :
    checksum d rw a P = checksum d' rw' a' P' := by
  rw [checksum, checksum, checksumSum_eq_fieldSum, checksumSum_eq_fieldSum, h]

/-- Within the payload limit the sum does not wrap, so different sums have different checksums (R106). -/
theorem checksum_ne (h : P.length ≤ 253) (h' : P'.length ≤ 253)
    (hne : fieldSum d rw a P ≠ fieldSum d' rw' a' P') :
    checksum d rw a P ≠ checksum d' rw' a' P' := by
  intro heq
  have hsub := congrArg BitVec.toNat heq
  rw [checksum_toNat h, checksum_toNat h'] at hsub
  have hle : fieldSum d rw a P ≤ 65535 := fieldSum_le h
  have hle' : fieldSum d' rw' a' P' ≤ 65535 := fieldSum_le h'
  omega

end

/-- Settles O20. -/
theorem checksumIsComplementOfSum : Obligations.ChecksumIsComplementOfSum := by
  intro d rw a P h
  have hsum : 2 ≤ fieldSum d rw a P := two_le_fieldSum
  have hval := checksum_toNat (d := d) (rw := rw) (a := a) h
  have hne : ∀ n, 65534 ≤ n → (checksum d rw a P).toNat ≠ n := by omega
  exact ⟨⟨hsum, fieldSum_le h⟩, hval, mt (congrArg BitVec.toNat) (hne 65534 (by decide)),
    mt (congrArg BitVec.toNat) (hne 65535 (by decide))⟩

/-- Settles O24: a permutation keeps the length and the sum. -/
theorem checksumSeesOnlyTheSum : Obligations.ChecksumSeesOnlyTheSum := by
  have hcongr : ∀ d rw a P Q, P.length = Q.length → payloadSum P = payloadSum Q →
      checksum d rw a P = checksum d rw a Q := fun d rw a P Q hlen hsum =>
    checksum_congr (by rw [fieldSum, fieldSum, hlen, hsum])
  exact ⟨hcongr, fun d rw a P Q h =>
    hcongr d rw a P Q h.length_eq (h.map BitVec.toNat).sum_eq⟩

/-! ### The commands CHECKSUM and ENCODE -/

theorem exec_checksum (d rw a : Byte) (P : List Byte) (s : State) :
    exec (.checksum d rw a P) s = .next (s.respond (checksumResponse d rw a P)) := rfl

theorem exec_encode (d rw a : Byte) (P : List Byte) (s : State) :
    exec (.encode d rw a P) s = .next (s.respond (encodeResponse d rw a P)) := rfl

theorem checksumResponse_of_le {d rw a : Byte} {P : List Byte} (h : P.length ≤ 253) :
    checksumResponse d rw a P = { status := .ok, checksum := some (checksum d rw a P) } :=
  if_neg (Nat.not_lt.mpr h)

theorem checksumResponse_of_gt {d rw a : Byte} {P : List Byte} (h : 253 < P.length) :
    checksumResponse d rw a P = .alone .errPayloadTooLong := if_pos h

theorem encodeResponse_of_le {d rw a : Byte} {P : List Byte} (h : P.length ≤ 253) :
    encodeResponse d rw a P = { status := .ok, frameBytes := some (encodeFrame d rw a P) } :=
  if_neg (Nat.not_lt.mpr h)

theorem encodeResponse_of_gt {d rw a : Byte} {P : List Byte} (h : 253 < P.length) :
    encodeResponse d rw a P = .alone .errPayloadTooLong := if_pos h

/-- Settles O21. -/
theorem checksumCommandResult : Obligations.ChecksumCommandResult := by
  intro d rw a P s
  refine ⟨fun h => ⟨checksum d rw a P, checksum_toNat h, ?_⟩, fun h => ?_⟩
  · rw [exec_checksum, checksumResponse_of_le h]
    rfl
  · rw [exec_checksum, checksumResponse_of_gt h]
    rfl

theorem lowByte_eq_ofNat (v : Half) : lowByte v = BitVec.ofNat 8 (v.toNat % 256) :=
  BitVec.eq_of_toNat_eq (by rw [lowByte_toNat, BitVec.toNat_ofNat]; omega)

theorem highByte_eq_ofNat (v : Half) : highByte v = BitVec.ofNat 8 (v.toNat / 256) :=
  BitVec.eq_of_toNat_eq (by have := v.isLt; rw [highByte_toNat, BitVec.toNat_ofNat]; omega)

/-- The bytes of a frame within the payload limit, its checksum from the sum (R103). -/
theorem encodeFrame_eq_of_le {d rw a : Byte} {P : List Byte} (h : P.length ≤ 253) :
    encodeFrame d rw a P = [0x55#8, 0xAA#8, BitVec.ofNat 8 (P.length + 2), d, rw, a] ++ P ++
      [BitVec.ofNat 8 ((0xFFFF - fieldSum d rw a P) % 256),
       BitVec.ofNat 8 ((0xFFFF - fieldSum d rw a P) / 256)] := by
  rw [← checksum_toNat h, ← lowByte_eq_ofNat, ← highByte_eq_ofNat]
  rfl

/-- Settles O22. -/
theorem encodeCommandResult : Obligations.EncodeCommandResult := by
  intro d rw a P s
  refine ⟨fun h => ?_, fun h => ?_⟩
  · dsimp only
    rw [← encodeFrame_eq_of_le h, exec_encode, encodeResponse_of_le h]
    exact ⟨encodeFrame_length d rw a P, rfl⟩
  · rw [exec_encode, encodeResponse_of_gt h]
    rfl

/-! ### A flipped bit -/

/-- A flipped bit changes the byte's value. -/
theorem xor_twoPow_toNat_ne (x : Byte) {b : Nat} (hb : b < 8) :
    (x ^^^ BitVec.twoPow 8 b).toNat ≠ x.toNat := by
  intro h
  have hbit := congrArg (BitVec.getLsbD · b) (BitVec.eq_of_toNat_eq h)
  simp [hb] at hbit

@[simp] theorem flipBit_length (P : List Byte) (i b : Nat) : (flipBit P i b).length = P.length :=
  List.length_set

theorem payloadSum_cons (x : Byte) (P : List Byte) :
    payloadSum (x :: P) = x.toNat + payloadSum P := rfl

/-- Setting a byte exchanges its value for the new one in the sum. -/
theorem payloadSum_set (x : Byte) {P : List Byte} {i : Nat} (h : i < P.length) :
    payloadSum (P.set i x) + (byteAt P i).toNat = payloadSum P + x.toNat := by
  induction P generalizing i with
  | nil => cases h
  | cons y P ih =>
    cases i with
    | zero =>
      rw [List.set_cons_zero, payloadSum_cons, payloadSum_cons, byteAt_cons_zero]
      omega
    | succ i =>
      have hset := ih (Nat.lt_of_succ_lt_succ h)
      rw [List.set_cons_succ, payloadSum_cons, payloadSum_cons, byteAt_cons_succ]
      omega

/-- A flipped bit of one payload byte changes the payload's sum (R106). -/
theorem payloadSum_flipBit_ne {P : List Byte} {i b : Nat} (hb : b < 8) (hi : i < P.length) :
    payloadSum (flipBit P i b) ≠ payloadSum P := by
  have hset := payloadSum_set (byteAt P i ^^^ BitVec.twoPow 8 b) hi
  have hbyte := xor_twoPow_toNat_ne (byteAt P i) hb
  unfold flipBit
  omega

/-- Settles O25: one flipped bit changes one summand; two fields that exchange their values keep the
sum. -/
theorem checksumSeesEverySingleBit : Obligations.ChecksumSeesEverySingleBit := by
  refine ⟨fun d rw a P b h hb => ⟨?_, ?_, ?_, fun i hi => ?_⟩,
    0x01#8, 0x00#8, 0x00#8, 0x00#8, 0x01#8, by decide, by decide, checksum_congr rfl⟩
  · have := xor_twoPow_toNat_ne d hb
    exact checksum_ne h h (by unfold fieldSum; omega)
  · have := xor_twoPow_toNat_ne rw hb
    exact checksum_ne h h (by unfold fieldSum; omega)
  · have := xor_twoPow_toNat_ne a hb
    exact checksum_ne h h (by unfold fieldSum; omega)
  · have hsum := payloadSum_flipBit_ne hb hi
    have hlen := flipBit_length P i b
    exact checksum_ne (hlen.trans_le h) h (by unfold fieldSum; omega)

/-! ### Parsing an encoded frame -/

section
variable (d rw a : Byte) (P Z : List Byte)

theorem byteAt_two_encodeFrame (h : P.length ≤ 253) :
    (byteAt (encodeFrame d rw a P ++ Z) 2).toNat = P.length + 2 :=
  countByte_toNat (Nat.add_le_add_right h 2)

theorem slice_payload_encodeFrame :
    slice (encodeFrame d rw a P ++ Z) headerLength (headerLength + P.length) = P := by
  simp [slice, encodeFrame_eq, headerLength, Nat.add_comm 6]

theorem slice_frame_encodeFrame :
    slice (encodeFrame d rw a P ++ Z) 0 (headerLength + P.length + 2) = encodeFrame d rw a P := by
  have hlen : headerLength + P.length + 2 = (encodeFrame d rw a P).length := by
    rw [encodeFrame_length, headerLength]
    omega
  rw [hlen, slice, List.take_left, List.drop_zero]

/-- An encoded frame passes its verification, and the bytes after it do not enter (R67, R126). -/
theorem parseComplete_encodeFrame : parseComplete (encodeFrame d rw a P ++ Z) P.length = .ok
    { direction := d, readWrite := rw, attrCode := a, payload := P,
      rawBytes := encodeFrame d rw a P } := by
  rw [parseComplete_ok_iff, slice_payload_encodeFrame, slice_frame_encodeFrame, le16_encodeFrame]
  exact ⟨rfl, rfl⟩

end

/-- Settles O26. -/
theorem parseOfEncodedFrame : Obligations.ParseOfEncodedFrame := by
  intro d rw a P Z h
  have hL := byteAt_two_encodeFrame d rw a P Z h
  have hlen : 6 + (P.length + 2) ≤ (encodeFrame d rw a P ++ Z).length := by
    rw [List.length_append, encodeFrame_length]
    omega
  rw [parse_ok_iff, hL]
  exact ⟨headerMismatch_cons_cons _, Nat.le_add_left 2 _, hlen,
    parseComplete_encodeFrame d rw a P Z⟩

end Sys2Proof.Machine
end

section
/-! PROOFS. The statements about the Frame Parser: the header check on the first two bytes, the
order of the statuses, a frame cut short, a frame with one flipped bit, and the command PARSE
(41_parser.md). -/

namespace Sys2Proof.Machine

/-! ### The header check -/

/-- The header check asks whether the bytes present among the first two start the header (R121). -/
theorem headerMismatch_eq_false_iff (B : List Byte) :
    headerMismatch B = false ↔ B.take 2 <+: [0x55#8, 0xAA#8] := by
  match B with
  | [] => simp [headerMismatch]
  | [b] => simp [headerMismatch, headerLow]
  | b :: c :: B => simp [headerMismatch, headerLow, headerHigh]

/-- Settles O28. -/
theorem headerCheckDecidesFirst : Obligations.HeaderCheckDecidesFirst := by
  intro B
  rw [parse_invalidHeader_iff, ← headerMismatch_eq_false_iff, Bool.not_eq_false]

/-- A sequence that passes the header check passes it however early it is cut (R121). -/
theorem headerMismatch_take {B : List Byte} (hm : headerMismatch B = false) (k : Nat) :
    headerMismatch (B.take k) = false := by
  rw [headerMismatch_eq_false_iff] at hm ⊢
  have htake : (B.take k).take 2 <+: B.take 2 := (List.take_prefix k B).take 2
  exact htake.trans hm

/-! ### The verification of a complete sequence -/

theorem slice_add (B : List Byte) (i n : Nat) : slice B i (i + n) = (B.drop i).take n := by
  rw [slice, List.drop_take, Nat.add_sub_cancel_left]

theorem parseComplete_of_ne {B : List Byte} {N : Nat} (h : le16 B (headerLength + N) ≠
    checksum (byteAt B 3) (byteAt B 4) (byteAt B 5) (slice B headerLength (headerLength + N))) :
    parseComplete B N = .invalidChecksum := if_pos h

theorem exists_parseComplete_of_eq {B : List Byte} {N : Nat} (h : le16 B (headerLength + N) =
    checksum (byteAt B 3) (byteAt B 4) (byteAt B 5) (slice B headerLength (headerLength + N))) :
    ∃ f, parseComplete B N = .ok f := ⟨_, (parseComplete_ok_iff B N _).mpr ⟨h, rfl⟩⟩

/-- The checksum of the fields and the payload that a sequence declares (R125). -/
def declaredChecksum (B : List Byte) : Half :=
  checksum (byteAt B 3) (byteAt B 4) (byteAt B 5) ((B.drop 6).take ((byteAt B 2).toNat - 2))

/-- A complete sequence is a frame exactly when its received checksum is the declared one (R126). -/
theorem parse_of_verification {B : List Byte} (hm : headerMismatch B = false)
    (hL : 2 ≤ (byteAt B 2).toNat) (hT : 6 + (byteAt B 2).toNat ≤ B.length) :
    (le16 B (4 + (byteAt B 2).toNat) ≠ declaredChecksum B → parse B = .invalidChecksum) ∧
    (le16 B (4 + (byteAt B 2).toNat) = declaredChecksum B → ∃ f, parse B = .ok f) := by
  have hoff : 4 + (byteAt B 2).toNat = headerLength + ((byteAt B 2).toNat - 2) := by
    rw [headerLength]
    omega
  have hslice := slice_add B headerLength ((byteAt B 2).toNat - 2)
  rw [parse_of_complete hm hL hT, hoff, declaredChecksum, ← headerLength, ← hslice]
  exact ⟨parseComplete_of_ne, exists_parseComplete_of_eq⟩

/-- Settles O29: each clause is one branch of the parse function. -/
theorem parseStatusPriority : Obligations.ParseStatusPriority := by
  intro B
  rw [← headerMismatch_eq_false_iff]
  refine ⟨fun hm => parse_of_mismatch (eq_true_of_ne_false hm), fun hm => ⟨parse_of_short hm,
    fun hn => ⟨parse_of_low_length hm hn, fun hL => ⟨parse_of_incomplete hm hn hL,
      fun hT => ?_⟩⟩⟩⟩
  obtain ⟨hne, heq⟩ := parse_of_verification hm hL hT
  have hrx : (le16 B (4 + (byteAt B 2).toNat)).toNat = (byteAt B (4 + (byteAt B 2).toNat)).toNat +
      256 * (byteAt B (5 + (byteAt B 2).toNat)).toNat := by
    rw [le16_toNat, Nat.add_right_comm]
  dsimp only
  rw [← hrx, ← declaredChecksum, Ne, BitVec.toNat_inj]
  exact ⟨hne, heq⟩

/-! ### A frame cut short -/

theorem byteAt_take {B : List Byte} {i k : Nat} (h : i < k) : byteAt (B.take k) i = byteAt B i := by
  rw [byteAt, byteAt, List.getD_eq_getElem?_getD, List.getD_eq_getElem?_getD,
    List.getElem?_take_of_lt h]

/-- A sequence cut before the end of the frame that its length byte declares is DISJOINTED: cut
inside the header, or after it with the same length byte (R122, R124). -/
theorem parse_take_of_lt {B : List Byte} {k : Nat} (hm : headerMismatch B = false)
    (hL : 2 ≤ (byteAt B 2).toNat) (hk : k < 6 + (byteAt B 2).toNat) :
    parse (B.take k) = .disjointed := by
  have hlen : (B.take k).length ≤ k := List.length_take_le k B
  rw [parse_disjointed_iff]
  refine ⟨headerMismatch_take hm k, ?_⟩
  rcases Nat.lt_or_ge k 6 with hshort | hlong
  · exact .inl (hlen.trans_lt hshort)
  · rw [byteAt_take (by omega : 2 < k)]
    exact .inr ⟨hL, hlen.trans_lt hk⟩

/-- Settles O31. -/
theorem framePrefixIsDisjointed : Obligations.FramePrefixIsDisjointed := by
  intro d rw a P k hP hk
  have hL : (byteAt (encodeFrame d rw a P) 2).toNat = P.length + 2 :=
    countByte_toNat (Nat.add_le_add_right hP 2)
  exact parse_take_of_lt (headerMismatch_cons_cons _) (by omega) (by omega)

/-! ### A flipped bit of a frame -/

@[simp] theorem flipBit_cons_zero (x : Byte) (B : List Byte) (b : Nat) :
    flipBit (x :: B) 0 b = (x ^^^ BitVec.twoPow 8 b) :: B := rfl

@[simp] theorem flipBit_cons_succ (x : Byte) (B : List Byte) (i b : Nat) :
    flipBit (x :: B) (i + 1) b = x :: flipBit B i b := by
  rw [flipBit, byteAt_cons_succ, List.set_cons_succ, flipBit]

theorem flipBit_append_left {A : List Byte} {i : Nat} (h : i < A.length) (B : List Byte) (b : Nat) :
    flipBit (A ++ B) i b = flipBit A i b ++ B := by
  rw [flipBit, byteAt_append_left h, List.set_append_left i _ h, flipBit]

theorem flipBit_append_right {A : List Byte} {i : Nat} (h : A.length ≤ i) (B : List Byte)
    (b : Nat) :
    flipBit (A ++ B) i b = A ++ flipBit B (i - A.length) b := by
  rw [flipBit, byteAt_append_right h, List.set_append_right i _ h, flipBit]

theorem xor_twoPow_ne (x : Byte) {b : Nat} (hb : b < 8) : x ^^^ BitVec.twoPow 8 b ≠ x :=
  mt (congrArg BitVec.toNat) (xor_twoPow_toNat_ne x hb)

theorem le16Bytes_ne_of_low_ne {lo hi : Byte} {v : Half} (h : lo ≠ lowByte v) :
    le16Bytes lo hi ≠ v := fun e => h (by rw [← e, lowByte_le16Bytes])

theorem le16Bytes_ne_of_high_ne {lo hi : Byte} {v : Half} (h : hi ≠ highByte v) :
    le16Bytes lo hi ≠ v := fun e => h (by rw [← e, highByte_le16Bytes])

/-- The header bytes, a length byte `n` and the three fields, before any bytes `R` (R41). -/
def headed (n d rw a : Byte) (R : List Byte) : List Byte :=
  headerLow :: headerHigh :: n :: d :: rw :: a :: R

section
variable {n d rw a : Byte} {R P : List Byte}

theorem headed_length : (headed n d rw a R).length = R.length + 6 := rfl

theorem headerMismatch_headed : headerMismatch (headed n d rw a R) = false :=
  headerMismatch_cons_cons _

/-- Reading past the six header bytes. -/
theorem le16_headed (N : Nat) : le16 (headed n d rw a R) (N + 6) = le16 R N := by
  simp [headed]

/-- What a sequence with a length byte of at least 2 parses as, when all its bytes are there: the
verification of the payload and the checksum after its header (R125, R126). -/
theorem parse_headed {N : Nat} (hn : n.toNat = N + 2) (hR : N + 2 ≤ R.length) :
    (le16 R N ≠ checksum d rw a (R.take N) → parse (headed n d rw a R) = .invalidChecksum) ∧
    (le16 R N = checksum d rw a (R.take N) → ∃ f, parse (headed n d rw a R) = .ok f) := by
  have hL : (byteAt (headed n d rw a R) 2).toNat = N + 2 := hn
  have hv := parse_of_verification (B := headed n d rw a R) headerMismatch_headed (by omega)
    (by rw [headed_length]; omega)
  have hoff : 4 + (N + 2) = N + 6 := by omega
  rw [declaredChecksum, hL, hoff, le16_headed, Nat.add_sub_cancel] at hv
  exact hv

/-- A frame's bytes with the checksum bytes `lo` and `hi` of some other value (R126). -/
theorem parse_headed_of_ne {lo hi : Byte} (hn : n.toNat = P.length + 2)
    (hc : le16Bytes lo hi ≠ checksum d rw a P) :
    parse (headed n d rw a (P ++ [lo, hi])) = .invalidChecksum := by
  have hrx : le16 (P ++ [lo, hi]) P.length = le16Bytes lo hi := by
    rw [le16, byteAt_append_right le_rfl, byteAt_append_right (Nat.le_add_right _ 1),
      Nat.sub_self, Nat.add_sub_cancel_left]
    rfl
  refine (parse_headed hn ?_).1 ?_
  · rw [List.length_append]
    rfl
  · rwa [hrx, List.take_left]

end

section
variable (d rw a : Byte) (P : List Byte)

/-- The bytes of a frame after its header: the payload and the checksum (R41). -/
def frameTail : List Byte := P ++ [lowByte (checksum d rw a P), highByte (checksum d rw a P)]

theorem encodeFrame_eq_headed :
    encodeFrame d rw a P = headed (countByte (P.length + 2)) d rw a (frameTail d rw a P) := rfl

theorem frameTail_length : (frameTail d rw a P).length = P.length + 2 := by
  rw [frameTail, List.length_append]
  rfl

variable {d rw a P} {i b : Nat}

/-- A flipped bit of a header byte is a header mismatch (R121). -/
theorem parse_flipBit_header (hb : b < 8) (hi : i < 2) :
    parse (flipBit (encodeFrame d rw a P) i b) = .invalidHeader := by
  rw [parse_invalidHeader_iff, headerMismatch_iff, flipBit_length, encodeFrame_length]
  match i, hi with
  | 0, _ => exact .inl ⟨by omega, xor_twoPow_ne headerLow hb⟩
  | 1, _ => exact .inr ⟨by omega, xor_twoPow_ne headerHigh hb⟩

/-- A flipped bit of the payload changes the checksum that is computed; one of the last two bytes
changes the checksum that is received (R106, R126). -/
theorem parse_flipBit_tail {n : Byte} (hP : P.length ≤ 253) (hn : n.toNat = P.length + 2)
    (hb : b < 8) (hi : i < P.length + 2) :
    parse (headed n d rw a (flipBit (frameTail d rw a P) i b)) = .invalidChecksum := by
  rw [frameTail]
  rcases Nat.lt_or_ge i P.length with hpay | hsum
  · rw [flipBit_append_left hpay]
    obtain ⟨-, -, -, hpayload⟩ := checksumSeesEverySingleBit.1 d rw a P b hP hb
    exact parse_headed_of_ne (by rw [flipBit_length, hn])
      ((le16Bytes_low_high _).trans_ne (hpayload i hpay).symm)
  · rw [flipBit_append_right hsum]
    obtain hlow | hhigh : i - P.length = 0 ∨ i - P.length = 1 := by omega
    · rw [hlow, flipBit_cons_zero]
      exact parse_headed_of_ne hn (le16Bytes_ne_of_low_ne (xor_twoPow_ne _ hb))
    · rw [hhigh, flipBit_cons_succ, flipBit_cons_zero]
      exact parse_headed_of_ne hn (le16Bytes_ne_of_high_ne (xor_twoPow_ne _ hb))

/-- A flipped bit of a field, the payload or the checksum makes the received checksum differ from
the computed one (R106, R129). -/
theorem parse_flipBit_body (hP : P.length ≤ 253) (hb : b < 8) (hi : 3 ≤ i)
    (hlen : i < P.length + 8) :
    parse (flipBit (encodeFrame d rw a P) i b) = .invalidChecksum := by
  have hn : (countByte (P.length + 2)).toNat = P.length + 2 :=
    countByte_toNat (Nat.add_le_add_right hP 2)
  obtain ⟨hd, hrw, ha, -⟩ := checksumSeesEverySingleBit.1 d rw a P b hP hb
  rw [encodeFrame_eq_headed, headed]
  match i, hi with
  | 3, _ => exact parse_headed_of_ne hn ((le16Bytes_low_high _).trans_ne hd.symm)
  | 4, _ => exact parse_headed_of_ne hn ((le16Bytes_low_high _).trans_ne hrw.symm)
  | 5, _ => exact parse_headed_of_ne hn ((le16Bytes_low_high _).trans_ne ha.symm)
  | i + 6, _ =>
    simp only [flipBit_cons_succ]
    exact parse_flipBit_tail hP hn hb (by omega)

/-- A frame under another length byte that is at least 2 and lower than its own: the verification of
the shortened payload (R129). -/
theorem parse_shortened {n : Byte} (h2 : 2 ≤ n.toNat) (hlt : n.toNat < P.length + 2) :
    (le16 (encodeFrame d rw a P) (4 + n.toNat) ≠ checksum d rw a (P.take (n.toNat - 2)) →
      parse (headed n d rw a (frameTail d rw a P)) = .invalidChecksum) ∧
    (le16 (encodeFrame d rw a P) (4 + n.toNat) = checksum d rw a (P.take (n.toNat - 2)) →
      ∃ f, parse (headed n d rw a (frameTail d rw a P)) = .ok f) := by
  obtain ⟨N, hN⟩ : ∃ N, n.toNat = N + 2 := ⟨n.toNat - 2, by omega⟩
  have hoff : 4 + n.toNat = N + 6 := by omega
  have htake : P.take (n.toNat - 2) = (frameTail d rw a P).take N := by
    rw [frameTail, List.take_append_of_le_length (by omega), hN, Nat.add_sub_cancel]
  rw [encodeFrame_eq_headed, hoff, le16_headed, htake]
  exact parse_headed hN (by rw [frameTail_length]; omega)

end

/-- Settles O32. -/
theorem singleBitCorruptionStatus : Obligations.SingleBitCorruptionStatus := by
  intro d rw a P i b hP hi hb F G L'
  have hlen : 6 ≤ G.length := by
    rw [flipBit_length, encodeFrame_length]
    omega
  have hG : i = 2 → G = headed (byteAt G 2) d rw a (frameTail d rw a P) := by
    rintro rfl
    rfl
  have hmatch (h : i = 2) : headerMismatch G = false := by
    rw [hG h]
    exact headerMismatch_headed
  refine ⟨parse_flipBit_header hb, fun h => parse_flipBit_body hP hb h hi, fun h hraised => ?_,
    fun h => parse_of_low_length (hmatch h) hlen, fun h h2 hlow => ?_⟩
  · refine parse_of_incomplete (hmatch h) hlen (by omega) ?_
    rw [flipBit_length, encodeFrame_length]
    omega
  · rw [hG h]
    exact parse_shortened h2 hlow

/-! ### The command PARSE -/

theorem exec_parse_of_le {B : List Byte} {s : State} (h : B.length ≤ s.params.parseMax) :
    exec (.parse B) s = .next (s.respond (parseResponse (parse B))) := if_neg (Nat.not_lt.mpr h)

theorem exec_parse_of_gt {B : List Byte} {s : State} (h : s.params.parseMax < B.length) :
    exec (.parse B) s = .next (s.respond (.alone .rejectedTooLong)) := if_pos h

/-- A parse that returns no frame is answered by its status alone (R127). -/
theorem parseResponse_of_not_ok {r : ParseResult} (h : ∀ f, r ≠ .ok f) :
    parseResponse r = .alone r.status := by
  cases r with
  | ok f => exact absurd rfl (h f)
  | invalidHeader => rfl
  | disjointed => rfl
  | invalidChecksum => rfl

/-- Settles O33. -/
theorem parseCommandResult : Obligations.ParseCommandResult := by
  refine fun B s => ⟨fun h => ⟨fun f hf => ?_, fun hnot => ?_⟩, exec_parse_of_gt⟩
  · rw [exec_parse_of_le h, hf]
    rfl
  · rw [exec_parse_of_le h, parseResponse_of_not_ok hnot]
    rfl

end Sys2Proof.Machine
end

section
/-! PROOFS. The statements about the Fragment Reassembler: one rule for each outcome of PUSH, and
from these rules a frame in two and in three chunks (42_reassembler.md). -/

namespace Sys2Proof.Machine

/-! ### Expiry, ageing and the scans -/

theorem survivors_append (p : Params) (es es' : List Entry) :
    survivors p (es ++ es') = survivors p es ++ survivors p es' := by
  unfold survivors
  split
  · rfl
  · exact List.filter_append ..

/-- An expiry removes nothing that is younger than `P_PEND_MAX_AGE`, unless that is 0 (R141). -/
theorem survivors_singleton {p : Params} {e : Entry}
    (h : p.pendMaxAge = 0 ∨ e.age.val < p.pendMaxAge) : survivors p [e] = [e] := by
  unfold survivors
  split
  · rfl
  · rename_i hne
    exact List.filter_cons_of_pos (decide_eq_true (h.resolve_left hne))

/-- An entry of age 0 never expires (R141). -/
theorem survivors_fresh (p : Params) (B : List Byte) :
    survivors p [{ bytes := B, age := 0 }] = [{ bytes := B, age := 0 }] :=
  survivors_singleton (Nat.eq_zero_or_pos _)

/-- What expiry, eviction and ageing leave has the bytes of an entry that was there (R141, R145,
R151). -/
theorem exists_of_mem_aged_survivors {p : Params} {es : List Entry} {e : Entry}
    (h : e ∈ ageAll (evictIfFull p (survivors p es))) : ∃ e' ∈ es, e'.bytes = e.bytes := by
  obtain ⟨e', he', rfl⟩ := exists_of_mem_ageAll h
  exact ⟨e', mem_of_mem_survivors ((evictIfFull_sublist p _).subset he'), rfl⟩

/-- The scan goes past entries the chunk does not complete (R147). -/
theorem firstComplete_append_singleton {C : List Byte} {es : List Entry} {e : Entry} {f : Frame}
    (hes : ∀ e' ∈ es, ∀ g, parse (e'.bytes ++ C) ≠ .ok g) (he : parse (e.bytes ++ C) = .ok f) :
    firstComplete C (es ++ [e]) = some (es.length, f) := by
  induction es with
  | nil => simp [firstComplete, he]
  | cons e' es ih =>
    obtain ⟨he', hes'⟩ := List.forall_mem_cons.mp hes
    rw [List.cons_append, firstComplete, ih hes']
    split
    · exact absurd ‹_› (he' _)
    · rfl

/-- Growing an entry of the aged store (R149, R151). -/
theorem growAt_ageAll {C : List Byte} {es : List Entry} {i : Nat} (h : i < es.length) :
    growAt C (ageAll es) i =
      (es.map Entry.older).set i { bytes := es[i].bytes ++ C, age := 0 } := by
  rw [growAt, List.modify_eq_set_get _ (by simpa using h)]
  simp [ageAll_eq_map]

theorem pushTail_of_complete {p : Params} {es : List Entry} {C : List Byte} {i : Nat} {f : Frame}
    (h : firstComplete C es = some (i, f)) : pushTail p es C = (ageAll (es.eraseIdx i),
      { status := .dispatchedCombined, index := some i, frame := some f,
        decode := some (decodeFrame p f) }) := by
  rw [pushTail, h]

theorem pushTail_of_extended {p : Params} {es : List Entry} {C : List Byte} {i : Nat}
    (hc : firstComplete C es = none) (ha : p.accumulate = true)
    (he : firstExtended C es = some i) :
    pushTail p es C = (growAt C (ageAll es) i, { status := .accumulated, index := some i }) := by
  simp only [pushTail, hc, ha, he, if_true]

theorem pushTail_of_unmatched {p : Params} {es : List Entry} {C : List Byte}
    (hc : firstComplete C es = none) (he : p.accumulate = true → firstExtended C es = none) :
    pushTail p es C = (ageAll es, { status := .discardedNoMatch }) := by
  have hscan : (if p.accumulate then firstExtended C es else none) = none := by
    split
    · exact he ‹_›
    · rfl
  simp only [pushTail, hc, hscan]

/-! ### The outcomes of PUSH -/

/-- No bytes at all are the start of a frame (R122), so any other outcome is of some bytes. -/
theorem ne_nil_of_parse {C : List Byte} (h : parse C ≠ .disjointed) : C ≠ [] := by
  rintro rfl
  exact h rfl

/-- An empty chunk is answered and nothing else (R152). -/
theorem execPush_nil (s : State) : execPush [] s =
    .next (s.respond { status := .ignoredEmpty, evicted := some 0, expired := some 0 }) :=
  if_neg (Nat.not_lt_zero s.params.chunkMax)

section
variable {C : List Byte} {s : State}

/-- PUSH by the parse result of its chunk, on what the expiry leaves (R142, R150). -/
theorem exec_push_of_parse {r : ParseResult} (hl : C.length ≤ s.params.chunkMax) (hne : C ≠ [])
    (hC : parse C = r) : exec (.push C) s =
      let res := pushByStatus s.params (survivors s.params s.pend) C r
      .next ((s.setPend res.1).respond { res.2.1 with
        parseStatus := some r.status
        evicted := some res.2.2
        expired := some (expiredCount s.params s.pend) }) := by
  subst hC
  refine (execPush_of_chunk hl hne).trans ?_
  rw [pushChunk_eq]

/-- A frame start is stored after eviction and ageing (R145, R151). -/
theorem exec_push_buffered (hl : C.length ≤ s.params.chunkMax) (hne : C ≠ [])
    (hC : parse C = .disjointed) : exec (.push C) s =
      .next ((s.setPend (ageAll (evictIfFull s.params (survivors s.params s.pend)) ++
        [{ bytes := C, age := 0 }])).respond (pushReply .buffered .disjointed
          (if (survivors s.params s.pend).length = s.params.pendDepth then 1 else 0)
          (expiredCount s.params s.pend))) := exec_push_of_parse hl hne hC

/-- A chunk that starts no frame does what the scans say (R147 to R149). -/
theorem exec_push_tail {t : List Entry × Response} (hl : C.length ≤ s.params.chunkMax)
    (hC : parse C = .invalidHeader) (ht : pushTail s.params (survivors s.params s.pend) C = t) :
    exec (.push C) s = .next ((s.setPend t.1).respond { t.2 with
      parseStatus := some .invalidHeader
      evicted := some 0
      expired := some (expiredCount s.params s.pend) }) := by
  subst ht
  exact exec_push_of_parse hl (ne_nil_of_parse (by rw [hC]; nofun)) hC

/-- The scan finds an entry that the chunk completes (R148). -/
theorem exec_push_combined {i : Nat} {f : Frame} (hl : C.length ≤ s.params.chunkMax)
    (hC : parse C = .invalidHeader)
    (h : firstComplete C (survivors s.params s.pend) = some (i, f)) : exec (.push C) s =
      .next ((s.setPend (ageAll ((survivors s.params s.pend).eraseIdx i))).respond
        (dispatchReply s.params { pushReply .dispatchedCombined .invalidHeader 0
          (expiredCount s.params s.pend) with index := some i } f)) :=
  exec_push_tail hl hC (pushTail_of_complete h)

/-- No entry is completed, and the second scan finds one that the chunk extends (R149). -/
theorem exec_push_accumulated {i : Nat} (hl : C.length ≤ s.params.chunkMax)
    (hC : parse C = .invalidHeader) (ha : s.params.accumulate = true)
    (hc : firstComplete C (survivors s.params s.pend) = none)
    (he : firstExtended C (survivors s.params s.pend) = some i) : exec (.push C) s =
      .next ((s.setPend (growAt C (ageAll (survivors s.params s.pend)) i)).respond
        { pushReply .accumulated .invalidHeader 0 (expiredCount s.params s.pend) with
          index := some i }) :=
  exec_push_tail hl hC (pushTail_of_extended hc ha he)

/-- No scan finds an entry (R148, R149). -/
theorem exec_push_unmatched (hl : C.length ≤ s.params.chunkMax) (hC : parse C = .invalidHeader)
    (hc : firstComplete C (survivors s.params s.pend) = none)
    (he : s.params.accumulate = true → firstExtended C (survivors s.params s.pend) = none) :
    exec (.push C) s = .next ((s.setPend (ageAll (survivors s.params s.pend))).respond
      (pushReply .discardedNoMatch .invalidHeader 0 (expiredCount s.params s.pend))) :=
  exec_push_tail hl hC (pushTail_of_unmatched hc he)

end

/-- Settles O36. -/
theorem pushDispatchesFrame : Obligations.PushDispatchesFrame :=
  fun _ _ _ hl hC => exec_push_of_parse hl (ne_nil_of_parse (by rw [hC]; nofun)) hC

/-- Settles O37. -/
theorem pushDiscardsCorruptFrame : Obligations.PushDiscardsCorruptFrame :=
  fun _ _ hl hC => exec_push_of_parse hl (ne_nil_of_parse (by rw [hC]; nofun)) hC

/-- Settles O38: the store is full or it is not. -/
theorem pushBuffersFrameStart : Obligations.PushBuffersFrameStart := by
  intro C s hne hl hC es
  have hpush := exec_push_buffered hl (List.ne_nil_of_length_pos hne) hC
  constructor
  · intro hfull
    rw [hpush, evictIfFull, if_pos hfull, if_pos hfull, List.drop_one]
    rfl
  · intro hroom
    rw [hpush, evictIfFull, if_neg hroom, if_neg hroom]
    rfl

/-- Settles O39. -/
theorem pushCombinesOldestCompleted : Obligations.PushCombinesOldestCompleted :=
  fun _ _ _ _ hl hC h hf hfirst =>
    exec_push_combined hl hC (firstComplete_eq_some.mpr ⟨h, hf, hfirst⟩)

/-- Settles O40. -/
theorem pushAccumulatesOldestExtended : Obligations.PushAccumulatesOldestExtended := by
  intro C s i hl hC ha es hc h he hfirst
  rw [exec_push_accumulated hl hC ha (firstComplete_eq_none.mpr hc)
    (firstExtended_eq_some.mpr ⟨h, he, hfirst⟩), growAt_ageAll h]
  rfl

/-- Settles O41. -/
theorem pushDiscardsUnmatched : Obligations.PushDiscardsUnmatched :=
  fun _ _ hl hC hc he => exec_push_unmatched hl hC (firstComplete_eq_none.mpr hc)
    fun ha => firstExtended_eq_none.mpr (he ha)

/-- Settles O34. -/
theorem pushIgnoresEmptyAndTooLong : Obligations.PushIgnoresEmptyAndTooLong :=
  ⟨execPush_nil, fun _ _ => execPush_of_tooLong⟩

/-- Settles O35. -/
theorem ageingSaturates : Obligations.AgeingSaturates :=
  fun e => ⟨e.older_bytes, e.older_age⟩

/-! ### A frame in two chunks -/

/-- A sequence that is one frame and nothing more, cut short, is the start of a frame (R124, R154). -/
theorem parse_of_append_frame {A B : List Byte} {f : Frame} (h : parse (A ++ B) = .ok f)
    (hraw : f.rawBytes = A ++ B) (hB : B ≠ []) : parse A = .disjointed := by
  obtain ⟨hm, hL, -, -⟩ := (parse_ok_iff _ f).mp h
  obtain ⟨hlen, henc, -⟩ := parse_ok_encodes h
  have htotal : A.length + B.length = f.payload.length + 8 := by
    rw [← List.length_append, ← hraw, henc, encodeFrame_length]
  have hpos := List.length_pos_of_ne_nil hB
  have hcut := parse_take_of_lt (k := A.length) hm hL (by omega)
  rwa [List.take_left] at hcut

/-- Settles O44: after the head is stored it is the last entry, the scan goes past the others, whose
bytes were there before, and the head followed by the tail is the frame. -/
theorem twoFragmentsReassemble : Obligations.TwoFragmentsReassemble := by
  intro s F k f _ hF hraw hk hkF hhead htail hC hmiss
  have hcat : F.take k ++ F.drop k = F := List.take_append_drop k F
  have hA : parse (F.take k) = .disjointed := by
    rw [← hcat] at hF hraw
    exact parse_of_append_frame hF hraw (ne_nil_of_parse (by rw [hC]; nofun))
  have hlenA : (F.take k).length = k := List.length_take_of_le hkF.le
  have hpushA := exec_push_buffered (s := s) (hlenA.trans_le hhead)
    (List.ne_nil_of_length_pos (hk.trans_eq hlenA.symm)) hA
  have hothers : ∀ e ∈ survivors s.params
      (ageAll (evictIfFull s.params (survivors s.params s.pend))), ∀ g,
      parse (e.bytes ++ F.drop k) ≠ .ok g := by
    intro e he
    obtain ⟨e', he', hbytes⟩ := exists_of_mem_aged_survivors (mem_of_mem_survivors he)
    exact hbytes ▸ hmiss e' he'
  have hscan := firstComplete_append_singleton (e := { bytes := F.take k, age := 0 }) hothers
    (hcat ▸ hF)
  rw [← survivors_fresh s.params, ← survivors_append] at hscan
  exact ⟨_, _, _, _, hpushA, rfl, rfl,
    exec_push_combined (List.length_drop.trans_le htail) hC hscan, rfl, rfl, rfl, rfl,
    fun hl => ⟨_, _, pushDispatchesFrame F s f hl hF, rfl, rfl, rfl, rfl⟩⟩

theorem byteAt_drop (B : List Byte) (k i : Nat) : byteAt (B.drop k) i = byteAt B (k + i) := by
  simp [byteAt, List.getD_eq_getElem?_getD]

/-- Settles O45: the header check reads the first byte of the tail, and the second if there is one. -/
theorem splitTailHeaderProviso : Obligations.SplitTailHeaderProviso := by
  intro F f k _ _ _ hk
  have hlast : F.length - k < 2 ↔ k = F.length - 1 := by omega
  rw [Ne, parse_invalidHeader_iff, headerMismatch_iff, List.length_drop, byteAt_drop, byteAt_drop,
    ← hlast, headerLow, headerHigh, Nat.add_zero]
  have hone : 1 ≤ F.length - k := by omega
  by_cases htwo : 2 ≤ F.length - k
  · simp [hone, htwo, Nat.not_lt.mpr htwo]
  · simp [hone, htwo, Nat.not_le.mp htwo]

/-! ### A frame in three chunks -/

/-- The store that holds one entry, whose bytes are `B`. -/
def loneEntry (B : List Byte) (age : Fin 256) : List Entry := [{ bytes := B, age := age }]

section
variable {p : Params} {A B C : List Byte} {s : State} {age : Fin 256} {f : Frame}

theorem survivors_loneEntry (h : p.pendMaxAge = 0 ∨ age.val < p.pendMaxAge) :
    survivors p (loneEntry A age) = loneEntry A age := survivors_singleton h

/-- The scan of one entry that the chunk does not complete, whether or not it has expired (R147). -/
theorem firstComplete_loneEntry_eq_none (h : ∀ g, parse (A ++ C) ≠ .ok g) :
    firstComplete C (survivors p (loneEntry A age)) = none := by
  rw [firstComplete_eq_none]
  intro e he
  obtain rfl := List.mem_singleton.mp (mem_of_mem_survivors he)
  exact h

/-- A frame start pushed into an empty store is its one entry (R145). -/
theorem exec_push_first (hs : s.pend = []) (hl : A.length ≤ s.params.chunkMax) (hne : A ≠ [])
    (hA : parse A = .disjointed) : ∃ r, r.status = .buffered ∧
      exec (.push A) s = .next ((s.setPend (loneEntry A 0)).respond r) := by
  have hstore : ageAll (evictIfFull s.params (survivors s.params s.pend)) = [] := by
    rw [hs, survivors_nil]
    exact List.map_eq_nil_iff.mpr (List.sublist_nil.mp (evictIfFull_sublist ..))
  have hpush := exec_push_buffered hl hne hA
  rw [hstore] at hpush
  exact ⟨_, rfl, hpush⟩

/-- With `P_ACCUMULATE = 1` a chunk grows the one entry, just stored, that it extends (R149). -/
theorem exec_push_grows (hs : s.pend = loneEntry A 0) (hl : B.length ≤ s.params.chunkMax)
    (hB : parse B = .invalidHeader) (ha : s.params.accumulate = true)
    (hAB : parse (A ++ B) = .disjointed) : ∃ r, r.status = .accumulated ∧
      exec (.push B) s = .next ((s.setPend (loneEntry (A ++ B) 0)).respond r) := by
  have hlive := survivors_fresh s.params A
  have hnone : firstComplete B (survivors s.params s.pend) = none :=
    hs ▸ firstComplete_loneEntry_eq_none (by rw [hAB]; nofun)
  have hsome : firstExtended B (survivors s.params s.pend) = some 0 := by
    rw [hs, loneEntry, hlive, firstExtended_eq_some]
    exact ⟨Nat.zero_lt_one, hAB, nofun⟩
  have hpush := exec_push_accumulated hl hB ha hnone hsome
  rw [hs, loneEntry, hlive] at hpush
  exact ⟨_, rfl, hpush⟩

/-- A chunk that completes the one entry, just stored or grown, empties the store (R148). -/
theorem exec_push_completes (hs : s.pend = loneEntry A 0) (hl : C.length ≤ s.params.chunkMax)
    (hC : parse C = .invalidHeader) (hf : parse (A ++ C) = .ok f) :
    ∃ r, r.status = .dispatchedCombined ∧ r.frame = some f ∧
      exec (.push C) s = .next ((s.setPend []).respond r) := by
  have hlive := survivors_fresh s.params A
  have hsome : firstComplete C (survivors s.params s.pend) = some (0, f) := by
    rw [hs, loneEntry, hlive, firstComplete_eq_some]
    exact ⟨Nat.zero_lt_one, hf, nofun⟩
  have hpush := exec_push_combined hl hC hsome
  rw [hs, loneEntry, hlive] at hpush
  exact ⟨_, rfl, rfl, hpush⟩

/-- With `P_ACCUMULATE = 0` a chunk that does not complete the one entry is dropped, and the entry
ages or has expired (R148, R149). -/
theorem exec_push_dropped (hs : s.pend = loneEntry A age) (hl : C.length ≤ s.params.chunkMax)
    (hC : parse C = .invalidHeader) (ha : s.params.accumulate = false)
    (hmiss : ∀ g, parse (A ++ C) ≠ .ok g) : ∃ r, r.status = .discardedNoMatch ∧
      exec (.push C) s =
        .next ((s.setPend (ageAll (survivors s.params (loneEntry A age)))).respond r) := by
  have hnone : firstComplete C (survivors s.params s.pend) = none :=
    hs ▸ firstComplete_loneEntry_eq_none hmiss
  have hpush := exec_push_unmatched hl hC hnone (by rw [ha]; nofun)
  rw [hs] at hpush
  exact ⟨_, rfl, hpush⟩

/-- The second and the third chunk of a frame with `P_ACCUMULATE = 1`, the first being stored: the
entry grows to the first two chunks, which the third completes (R155). -/
theorem exec_push_reassembles (hs : s.pend = loneEntry A 0) (hlB : B.length ≤ s.params.chunkMax)
    (hlC : C.length ≤ s.params.chunkMax) (hB : parse B = .invalidHeader)
    (hC : parse C = .invalidHeader) (ha : s.params.accumulate = true)
    (hAB : parse (A ++ B) = .disjointed) (hF : parse (A ++ B ++ C) = .ok f) :
    ∃ t u q w, exec (.push B) s = .next t ∧ exec (.push C) t = .next u ∧
      u.responses = s.responses ++ [q, w] ∧ q.status = .accumulated ∧
      w.status = .dispatchedCombined ∧ w.frame = some f ∧ u.pend = [] := by
  obtain ⟨q, hq, hpushB⟩ := exec_push_grows hs hlB hB ha hAB
  obtain ⟨w, hw, hframe, hpushC⟩ := exec_push_completes
    (s := (s.setPend (loneEntry (A ++ B) 0)).respond q) rfl hlC hC hF
  exact ⟨_, _, q, w, hpushB, hpushC, List.append_assoc .., hq, hw, hframe, rfl⟩

/-- The second and the third chunk of a frame with `P_ACCUMULATE = 0`, the first being stored: the
second is dropped, and the third too, unless it completes the first by chance (R155). -/
theorem exec_push_loses (hs : s.pend = loneEntry A 0) (hlB : B.length ≤ s.params.chunkMax)
    (hlC : C.length ≤ s.params.chunkMax) (hB : parse B = .invalidHeader)
    (hC : parse C = .invalidHeader) (ha : s.params.accumulate = false)
    (hAB : parse (A ++ B) = .disjointed) :
    ∃ t u q w, exec (.push B) s = .next t ∧ exec (.push C) t = .next u ∧
      u.responses = s.responses ++ [q, w] ∧ q.status = .discardedNoMatch ∧
      ((∀ g, parse (A ++ C) ≠ .ok g) → w.status = .discardedNoMatch ∧
        (s.params.pendMaxAge ≠ 1 → u.pend = loneEntry A 2)) := by
  obtain ⟨q, hq, hpushB⟩ := exec_push_dropped hs hlB hB ha (by rw [hAB]; nofun)
  have haged : ageAll (survivors s.params (loneEntry A 0)) = loneEntry A 1 :=
    congrArg ageAll (survivors_fresh s.params A)
  rw [haged] at hpushB
  by_cases hmiss : ∀ g, parse (A ++ C) ≠ .ok g
  · obtain ⟨w, hw, hpushC⟩ := exec_push_dropped
      (s := (s.setPend (loneEntry A 1)).respond q) rfl hlC hC ha hmiss
    refine ⟨_, _, q, w, hpushB, hpushC, List.append_assoc .., hq, fun _ => ⟨hw, fun hage => ?_⟩⟩
    have hlive : s.params.pendMaxAge = 0 ∨ 1 < s.params.pendMaxAge := by omega
    exact congrArg ageAll (survivors_loneEntry hlive)
  · obtain ⟨u, w, hpushC, hresp, -⟩ := execPush_answer
      (s := (s.setPend (loneEntry A 1)).respond q) hlC
    exact ⟨_, u, q, w, hpushB, hpushC, hresp.trans (List.append_assoc ..), hq,
      fun h => absurd h hmiss⟩

end

/-- Settles O46: the first chunk is stored, and then the setting decides. -/
theorem threeFragments : Obligations.ThreeFragments := by
  intro s A B C f _ hs hlA hlB hlC hneA _ hneC hF hraw hB hC
  have hAB : parse (A ++ B) = .disjointed := parse_of_append_frame hF hraw hneC
  have hA : parse A = .disjointed := by
    rw [List.append_assoc] at hF hraw
    exact parse_of_append_frame hF hraw (List.append_ne_nil_of_right_ne_nil B hneC)
  obtain ⟨r, hr, hpushA⟩ := exec_push_first hs hlA hneA hA
  cases hacc : s.params.accumulate with
  | true =>
    obtain ⟨t, u, q, w, hpushB, hpushC, hresp, hyes⟩ := exec_push_reassembles
      (s := (s.setPend (loneEntry A 0)).respond r) rfl hlB hlC hB hC hacc hAB hF
    exact ⟨_, t, u, r, q, w, hpushA, hpushB, hpushC, hresp.trans (List.append_assoc ..), hr,
      fun _ => hyes, nofun⟩
  | false =>
    obtain ⟨t, u, q, w, hpushB, hpushC, hresp, hno⟩ := exec_push_loses
      (s := (s.setPend (loneEntry A 0)).respond r) rfl hlB hlC hB hC hacc hAB
    exact ⟨_, t, u, r, q, w, hpushA, hpushB, hpushC, hresp.trans (List.append_assoc ..), hr,
      nofun, fun _ => hno⟩

end Sys2Proof.Machine
end

section
/-! PROOFS. The statements about decoding a payload: the outcomes of DECODE, what the fifteen rows
have in common, and the fields of each layout (43_attribute_decoder.md). -/

namespace Sys2Proof.Machine

/-! ### The outcomes of DECODE and of a kind's row -/

section
variable {d a : Byte} {k : AttrKind} {P : List Byte} {s : State}

theorem exec_decode (d a : Byte) (P : List Byte) (s : State) : exec (.decode d a P) s =
    .next (s.respond (decodeResponse (decodePayload s.params d a P))) := rfl

/-- DECODE with a key that no kind has (R170). -/
theorem exec_decode_of_none (h : lookup s.params d a = none) :
    exec (.decode d a P) s = .next (s.respond (.alone .unhandled)) := by
  rw [exec_decode, decodePayload, h]
  rfl

/-- DECODE with the key of a kind does what the kind's row does (R170). -/
theorem exec_decode_of_some (h : lookup s.params d a = some k) :
    exec (.decode d a P) s = exec (k.decodeInstr P) s := by
  rw [exec_decode, exec_decodeInstr, decodePayload, h]

/-- A kind's row on a payload of another size (R172). -/
theorem exec_decodeInstr_of_ne (h : P.length ≠ payloadSize k) :
    exec (k.decodeInstr P) s = .next (s.respond (.alone .lengthMismatch)) := by
  rw [exec_decodeInstr, decodeKind_of_ne h]
  rfl

/-- A kind's row on a payload of the kind's size, given the fields that its layout reads (R170). -/
theorem exec_decodeInstr_of_fields {fs : List Field} (h : P.length = payloadSize k)
    (hfs : decodeFieldsFrom k P 0 (layout k) = fs) :
    exec (k.decodeInstr P) s = .next (s.respond (decodedResponse k fs)) := by
  rw [exec_decodeInstr, decodeKind_of_eq h, hfs]
  rfl

end

/-- Settles O48: with the key of a kind, DECODE is the kind's row, and the size decides. -/
theorem decodeCommandOutcomes : Obligations.DecodeCommandOutcomes := by
  refine fun d a P s => ⟨exec_decode_of_none, fun k hk => ⟨fun hne => ?_, fun heq => ?_⟩⟩
  · rw [exec_decode_of_some hk]
    exact exec_decodeInstr_of_ne hne
  · refine ⟨decodeFieldsFrom k P 0 (layout k), ?_, (exec_decode_of_some hk).symm⟩
    rw [exec_decode_of_some hk]
    exact exec_decodeInstr_of_fields heq rfl

/-- What R175 to R189 say of every kind alike, with the kind's entry of the tables of R70 and R71. -/
theorem kindRow (k : AttrKind) : KindRow k.decodeInstr k (payloadSize k)
    (defaultAttrDir.get k) (defaultAttrCode.get k) :=
  ⟨rfl, fun p P => encode_decodeInstr p k P, fun _ _ h => exec_decodeInstr_of_ne h⟩

/-! ### Reading the fields of a layout -/

section
variable (k : AttrKind) (P : List Byte) (j off : Nat) (name : FieldName) (ds : List FieldDesc)

theorem decodeFieldsFrom_nil : decodeFieldsFrom k P j [] = [] := rfl

theorem decodeFieldsFrom_num (ty : NumType) (c : NumConv) :
    decodeFieldsFrom k P j (.num off ty name c :: ds) =
      numField k j name (extract P off ty) c (convert (extract P off ty) c) ::
        decodeFieldsFrom k P (j + 1) ds := rfl

theorem decodeFieldsFrom_text (n : Nat) : decodeFieldsFrom k P j (.text off n name :: ds) =
    textField k j name (slice P off (off + n)) :: decodeFieldsFrom k P (j + 1) ds := rfl

/-- A reserved field is not read and takes no index (R75, R173). -/
theorem decodeFieldsFrom_rsvd (n : Nat) :
    decodeFieldsFrom k P j (.rsvd off n :: ds) = decodeFieldsFrom k P j ds := rfl

end

/-- A boolean conversion of a `u16` compares both of its bytes (R178). -/
theorem convert_u16_eq (b0 b1 : Byte) {K : Nat} (hK : K < 256) : convert (u16Value b0 b1) (.eq K) =
    .bool (decide (b0 = BitVec.ofNat 8 K ∧ b1 = 0x00#8)) :=
  congrArg Value.bool (u16Value_beq b0 b1 hK)

/-- A byte in the middle part of a payload, after a first part of `n` bytes. -/
theorem byteAt_middle {A M C : List Byte} {n i : Nat} (hA : A.length = n) (h1 : n ≤ i)
    (h2 : i < n + M.length) : byteAt (A ++ M ++ C) i = byteAt M (i - n) := by
  subst hA
  rw [byteAt_append_left (by rwa [List.length_append]), byteAt_append_right h1]

/-- The middle part of a payload is the slice at its place (R10). -/
theorem slice_middle (A M C : List Byte) :
    slice (A ++ M ++ C) A.length (A.length + M.length) = M := by
  rw [slice_add, List.append_assoc, List.drop_left, List.take_left]

/-! ### The kinds of one `u16` or `i16` field -/

section
variable {k : AttrKind} {name : FieldName} {c : NumConv}

/-- A kind whose whole layout is one `u16` (R175, R177 to R181, R183). -/
theorem exec_u16Row (hk : payloadSize k = 2) (hl : layout k = [.num 0 .u16 name c]) (b0 b1 : Byte)
    (s : State) : exec (k.decodeInstr [b0, b1]) s = .next (s.respond (decodedResponse k
      [numField k 0 name (u16Value b0 b1) c (convert (u16Value b0 b1) c)])) :=
  exec_decodeInstr_of_fields hk.symm (by rw [hl, decodeFieldsFrom_num, extract_u16]; rfl)

/-- A kind whose whole layout is one `i16` (R176, R182). -/
theorem exec_i16Row (hk : payloadSize k = 2) (hl : layout k = [.num 0 .i16 name c]) (b0 b1 : Byte)
    (s : State) : exec (k.decodeInstr [b0, b1]) s = .next (s.respond (decodedResponse k
      [numField k 0 name (i16Value b0 b1) c (convert (i16Value b0 b1) c)])) :=
  exec_decodeInstr_of_fields hk.symm (by rw [hl, decodeFieldsFrom_num, extract_i16]; rfl)

/-- A kind whose whole layout is one boolean (R178, R179, R180). -/
theorem exec_boolRow {K : Nat} (hk : payloadSize k = 2) (hl : layout k = [.num 0 .u16 name (.eq K)])
    (hK : K < 256) (b0 b1 : Byte) (s : State) :
    exec (k.decodeInstr [b0, b1]) s = .next (s.respond (decodedResponse k
      [numField k 0 name (u16Value b0 b1) (.eq K)
        (.bool (decide (b0 = BitVec.ofNat 8 K ∧ b1 = 0x00#8)))])) := by
  rw [exec_u16Row hk hl, convert_u16_eq b0 b1 hK]

end

/-- Settles O51. -/
theorem unsignedHundredthsDecode : Obligations.UnsignedHundredthsDecode :=
  ⟨kindRow .distanceLeft, kindRow .batteryVoltage, fun b0 b1 s =>
    ⟨exec_u16Row (k := .distanceLeft) rfl rfl b0 b1 s,
     exec_u16Row (k := .batteryVoltage) rfl rfl b0 b1 s⟩⟩

/-- Settles O52. -/
theorem signedHundredthsDecode : Obligations.SignedHundredthsDecode :=
  ⟨kindRow .speed, kindRow .batteryCurrent, fun b0 b1 s =>
    ⟨exec_i16Row (k := .speed) rfl rfl b0 b1 s,
     exec_i16Row (k := .batteryCurrent) rfl rfl b0 b1 s⟩⟩

/-- Settles O53. -/
theorem plainCountsDecode : Obligations.PlainCountsDecode :=
  ⟨kindRow .tripDistance, kindRow .batteryPercent, fun b0 b1 s =>
    ⟨exec_u16Row (k := .tripDistance) rfl rfl b0 b1 s,
     exec_u16Row (k := .batteryPercent) rfl rfl b0 b1 s⟩⟩

/-- Settles O54. -/
theorem booleanFieldsDecode : Obligations.BooleanFieldsDecode :=
  ⟨kindRow .tailLight, kindRow .cruise, kindRow .getLock, fun b0 b1 s =>
    ⟨exec_boolRow (k := .tailLight) (K := 2) rfl rfl (by decide) b0 b1 s,
     exec_boolRow (k := .cruise) (K := 1) rfl rfl (by decide) b0 b1 s,
     exec_boolRow (k := .getLock) (K := 2) rfl rfl (by decide) b0 b1 s⟩⟩

/-! ### The kinds of several fields -/

/-- Settles O55: each field is read at its own offset of the ten bytes. -/
theorem batteryInfoDecodes : Obligations.BatteryInfoDecodes := by
  refine ⟨kindRow .batteryInfo, fun b0 b1 b2 b3 b4 b5 b6 b7 b8 b9 s =>
    exec_decodeInstr_of_fields (k := .batteryInfo) rfl ?_⟩
  simp only [layout, layoutBatteryInfo, decodeFieldsFrom_num, extract_u8, extract_u16, extract_i16]
  rfl

/-- Lanes `i` to `i + n - 1`, each a `u16` at twice its index, before a reserved tail (R185). -/
theorem decodeFieldsFrom_lanes (k : AttrKind) (P : List Byte) (name : Nat → FieldName) (c : NumConv)
    (off w n i : Nat) :
    decodeFieldsFrom k P i
        ((List.range' i n).map (fun j => .num (2 * j) .u16 (name j) c) ++ [.rsvd off w]) =
      (List.range' i n).map fun j =>
        numField k j (name j) (u16Value (byteAt P (2 * j)) (byteAt P (2 * j + 1))) c
          (convert (u16Value (byteAt P (2 * j)) (byteAt P (2 * j + 1))) c) := by
  induction n generalizing i with
  | zero => rfl
  | succ n ih =>
    rw [List.range'_succ, List.map_cons, List.map_cons, List.cons_append, decodeFieldsFrom_num,
      extract_u16, ih]

/-- Settles O56. -/
theorem cellVoltagesDecode : Obligations.CellVoltagesDecode :=
  ⟨kindRow .batteryCellVoltages, fun P _ hP =>
    exec_decodeInstr_of_fields (k := .batteryCellVoltages) hP
      (decodeFieldsFrom_lanes .batteryCellVoltages P .cellVoltage (.div 100 .volt) 20 7 10 0)⟩

/-- The hex digit of a `u16` at bit `lo`, as an integer (R186). -/
theorem nibble_u16Value (b0 b1 : Byte) (lo : Nat) : nibble (u16Value b0 b1) lo =
    BitVec.ofNat 4 ((b0.toNat + 256 * b1.toNat) / 2 ^ lo) := by
  have hraw : BitVec.ofInt 16 (u16Value b0 b1) = BitVec.ofNat 16 (b0.toNat + 256 * b1.toNat) :=
    BitVec.ofInt_natCast ..
  have h0 := b0.isLt
  have h1 := b1.isLt
  rw [nibble, hraw, BitVec.extractLsb', BitVec.toNat_ofNat, Nat.mod_eq_of_lt (by omega),
    Nat.shiftRight_eq_div_pow]

/-- The three low hex digits of a version: one of its high byte, two of its low byte (R186). -/
theorem convert_u16_nibbles3 (b0 b1 : Byte) : convert (u16Value b0 b1) .nibbles3 =
    .nibbles (BitVec.ofNat 4 (b1.toNat % 16)) (BitVec.ofNat 4 (b0.toNat / 16))
      (BitVec.ofNat 4 (b0.toNat % 16)) := by
  have h0 := b0.isLt
  rw [convert, nibble_u16Value, nibble_u16Value, nibble_u16Value, Value.nibbles.injEq]
  refine ⟨?_, ?_, ?_⟩ <;>
  · apply BitVec.eq_of_toNat_eq
    simp only [BitVec.toNat_ofNat]
    omega

theorem decodeFieldsFrom_generalInfo {serial pin : List Byte} (hs : serial.length = 14)
    (hp : pin.length = 6) (v0 v1 : Byte) :
    decodeFieldsFrom .generalInfo (serial ++ pin ++ [v0, v1]) 0 (layout .generalInfo) =
      [textField .generalInfo 0 .serial serial,
       textField .generalInfo 1 .pin pin,
       numField .generalInfo 2 .version (u16Value v0 v1) .nibbles3
        (convert (u16Value v0 v1) .nibbles3)] := by
  have hserial : slice (serial ++ pin ++ [v0, v1]) 0 14 = serial := by
    simpa [hs] using slice_middle [] serial (pin ++ [v0, v1])
  have hpin : slice (serial ++ pin ++ [v0, v1]) 14 20 = pin := by
    simpa [hs, hp] using slice_middle serial pin [v0, v1]
  have hversion : extract (serial ++ pin ++ [v0, v1]) 20 .u16 = u16Value v0 v1 := by
    have hlen : (serial ++ pin).length = 20 := by rw [List.length_append, hs, hp]
    rw [extract_u16, byteAt_append_right hlen.le, byteAt_append_right (by omega), hlen]
    rfl
  simp only [layout, layoutGeneralInfo, decodeFieldsFrom_num, decodeFieldsFrom_text,
    decodeFieldsFrom_nil, Nat.zero_add, Nat.reduceAdd, hserial, hpin, hversion]

/-- A hex digit is the ASCII code of the digit that the library writes (R186). -/
theorem hexDigit_eq_digitChar :
    ∀ v : BitVec 4, hexDigit v = BitVec.ofNat 8 (Nat.digitChar v.toNat).toNat := by decide

/-- Settles O57. -/
theorem generalInfoDecodes : Obligations.GeneralInfoDecodes := by
  refine ⟨kindRow .generalInfo, fun serial pin v0 v1 s hs hp => ?_, fun v2 v1 v0 => ?_⟩
  · rw [← convert_u16_nibbles3]
    exact exec_decodeInstr_of_fields (k := .generalInfo) (by simp [hs, hp, payloadSize])
      (decodeFieldsFrom_generalInfo hs hp v0 v1)
  · rw [versionText, hexDigit_eq_digitChar, hexDigit_eq_digitChar, hexDigit_eq_digitChar]
    rfl

/-- Settles O58: every data field lies between the head and the tail. -/
theorem motorInfoDecodes : Obligations.MotorInfoDecodes := by
  refine ⟨kindRow .motorInfo, fun head tail b0 b1 b2 b3 b4 b5 b6 b7 b8 b9 b10 b11 b12 b13 b14 b15 s
    hhead htail => exec_decodeInstr_of_fields (k := .motorInfo) ?_ ?_⟩
  · simp [hhead, htail, payloadSize]
  · simp only [layout, layoutMotorInfo, decodeFieldsFrom_num, decodeFieldsFrom_rsvd, extract_u16,
      extract_i16, extract_u32, byteAt_middle hhead, List.length_cons, List.length_nil,
      Nat.reduceAdd, Nat.reduceLeDiff, Nat.reduceLT]
    rfl

/-- Settles O59: of TRIP_INFO the reserved pair is not read; of SUPPLEMENTARY two fields compare their
whole `u16`. -/
theorem tripInfoAndSupplementaryDecode : Obligations.TripInfoAndSupplementaryDecode := by
  refine ⟨kindRow .tripInfo, kindRow .supplementary,
    fun b0 b1 b2 b3 b4 b5 x y b8 b9 s =>
      exec_decodeInstr_of_fields (k := .tripInfo) rfl ?_,
    fun b0 b1 b2 b3 b4 b5 s => exec_decodeInstr_of_fields (k := .supplementary) rfl ?_⟩
  · simp only [layout, layoutTripInfo, decodeFieldsFrom_num, decodeFieldsFrom_rsvd, extract_u16,
      extract_i16, extract_u32]
    rfl
  · rw [← convert_u16_eq b2 b3 (K := 1) (by decide), ← convert_u16_eq b4 b5 (K := 2) (by decide)]
    simp only [layout, layoutSupplementary, decodeFieldsFrom_num, extract_u16]
    rfl

end Sys2Proof.Machine
end

section
/-! PROOFS. The statements about exceptions, of which the machine has none: a step of a sound machine
always answers a next state, and an idle machine keeps its state (60_exceptions.md). -/

namespace Sys2Proof.Machine

/-- Every instruction answers exactly one response and leaves the port alone (R80, R220). -/
theorem exec_adds_response (i : Instr) (s : State) :
    ∃ t r, exec i s = .next t ∧ t.port = s.port ∧ t.responses = s.responses ++ [r] := by
  cases hi : isPush i with
  | false =>
    obtain ⟨r, hr⟩ := exec_eq_respond hi s.params
    exact ⟨_, r, hr s rfl, rfl, rfl⟩
  | true =>
    obtain ⟨C, rfl⟩ := exists_eq_push hi
    rcases execPush_cases C s with ⟨r, he⟩ | ⟨-, r, he⟩ <;> exact ⟨_, r, he, rfl, rfl⟩

/-- A command on a sound store is taken from the port and answers exactly one response, whether its
bytes decode or not (R80, R85). -/
theorem step_command_adds_response {s : State} (h : s.params.Legal) (hs : ∀ e ∈ s.pend, e.Sound)
    {cmd : List Byte} {rest : List HostEvent} (hp : s.port = .command cmd :: rest) :
    ∃ t r, step s = .next t ∧ t.port = rest ∧ t.responses = s.responses ++ [r] := by
  rw [step_command h hs hp]
  cases decode s.params cmd with
  | ok i => exact exec_adds_response i (s.setPort rest)
  | error _ => exact ⟨_, .alone .rejectedMalformed, rfl, rfl, rfl⟩

/-- Settles O7: an idle step, a command and the two resets each answer a next state, and that state is
the only one the step answers. -/
theorem soundMachineNeverStops : Obligations.SoundMachineNeverStops := by
  intro s hs
  rcases hp : s.port with _ | ⟨cmd | _ | cmd, rest⟩
  case nil =>
    have hstep := step_idle hs.legal hp
    refine ⟨⟨_, hstep⟩, fun t ht => ?_⟩
    cases hstep.symm.trans ht
    exact ⟨hp, nofun, fun _ => rfl⟩
  case cons.command =>
    obtain ⟨u, r, hstep, hport, hresp⟩ := step_command_adds_response hs.legal hs.store.sound hp
    refine ⟨⟨u, hstep⟩, fun t ht => ?_⟩
    cases hstep.symm.trans ht
    exact ⟨hport, fun _ => ⟨r, hresp⟩, fun hno => absurd ⟨cmd, rfl⟩ hno⟩
  case cons.reset | cons.resetDuring =>
    have hstep := step_event hs.legal hp
    refine ⟨⟨_, hstep⟩, fun t ht => ?_⟩
    cases hstep.symm.trans ht
    exact ⟨rfl, nofun, fun _ => rfl⟩

/-- Settles O3. -/
theorem idleMachineKeepsState : Obligations.IdleMachineKeepsState := fun _ => step_idle

end Sys2Proof.Machine
end

section
/-! PROOFS. The statement about a reset asserted while a command runs (70_reset_and_hazards.md). -/

namespace Sys2Proof.Machine

/-- Settles O2: the event's effect does not run the command, it only empties the store (R251). -/
theorem resetDuringCommandAbortsIt : Obligations.ResetDuringCommandAbortsIt := by
  intro s cmd rest hl hp
  calc step s = takeEvent (.resetDuring cmd) (s.setPort rest) := step_event hl hp
    _ = .next (s.setPort rest).clearStore := rfl

end Sys2Proof.Machine
end

section
/-! PROOFS. The statement about the model's own stops: an instance that is not built (M3, M4) and a
store that breaks R23 (M5). -/

namespace Sys2Proof.Machine

/-- The store check names an entry whenever some entry is not sound (R23). -/
theorem exists_badEntry_eq_some {s : State} (h : ∃ e ∈ s.pend, ¬ e.Sound) :
    ∃ i, badEntry s = some i := by
  obtain ⟨e, he, hbad⟩ := h
  exact Option.ne_none_iff_exists'.mp fun hnone => hbad (badEntry_eq_none.mp hnone e he)

/-- A command presented to a built machine whose store check names an entry is that fault, whatever
the command's bytes are (M5). -/
theorem step_command_of_badEntry {s : State} (h : s.params.Legal) {cmd : List Byte}
    {rest : List HostEvent} (hp : s.port = .command cmd :: rest) {i : Nat}
    (hi : badEntry s = some i) : step s = .fault (.entryNotDisjointed i) := by
  rw [step_event h hp]
  simp only [takeEvent, runCommand, badEntry_setPort, hi]

/-- Settles O11: an illegal instance is refused before its port is read, and a command on an unsound
store stops at the entry the store check names. -/
theorem unbuiltOrUnsoundMachineStops : Obligations.UnbuiltOrUnsoundMachineStops := by
  refine ⟨fun _ => step_illegal, fun s cmd rest hl hp hbad => ?_⟩
  obtain ⟨i, hi⟩ := exists_badEntry_eq_some hbad
  exact ⟨i, step_command_of_badEntry hl hp hi⟩

end Sys2Proof.Machine
end
